-- ==== Sys2Proof/Word.lean ====
section
/-! DEFINITION. The word types: bytes, halfwords and the 32-bit command word (00_scope.md R10, 30_encoding.md R60). -/

namespace Sys2Proof

/-- An unsigned 8-bit value, 0 to 255 (R10). -/
abbrev Byte := BitVec 8

/-- An unsigned 16-bit value, 0 to 65535 (R10). -/
abbrev Half := BitVec 16

/-- A command word; bit 0 is the least significant bit (R11, R60, R61). -/
abbrev Word := BitVec 32

end Sys2Proof
end

