-- ==== Sys2Proof/Config.lean ====
section
/-! DEFINITION. What is fixed for this hardware (00_scope.md R6, 10_state.md R39), the names of the three
acknowledgements, and the host-level parameters that change no rule of the block (00_scope.md R9). The block has no
free value: every rule of the spec gives every value it writes. -/

namespace Sys2Proof

namespace Config

/-- `HDR1`, the first magic header byte (R6). -/
def hdr1 : Byte := 0x42

/-- `HDR2`, the second magic header byte (R6). -/
def hdr2 : Byte := 0x4D

/-- `CMD_LEN`, the command frame's length in bytes (R6). -/
def cmdLen : Nat := 7

/-- `TLM_LEN`, the telemetry frame's length in bytes (R6). -/
def tlmLen : Nat := 32

/-- `ACK_LEN`, the acknowledgement frame's length in bytes (R6). -/
def ackLen : Nat := 8

/-- `TLM_SUM_LEN`, the number of bytes the telemetry checksum covers (R6). -/
def tlmSumLen : Nat := 30

/-- `CMD_SUM_LEN`, the number of bytes the command checksum covers (R6). -/
def cmdSumLen : Nat := 5

/-- `MAXLEN`, the capacity of the frame buffer BUF (R6). -/
def maxLen : Nat := 32

/-- `LEN_MIN`, the smallest target length RDSTART accepts (R6). -/
def lenMin : Nat := 3

end Config

/-- The three acknowledgements a host can ask ACKCMP for (30_encoding.md R67); SEL = 3 is no selector, so it has no
constructor. -/
inductive AckSel where
  /-- SEL = 0, the passive-mode acknowledgement. -/
  | passive
  /-- SEL = 1, the active-mode acknowledgement. -/
  | active
  /-- SEL = 2, the sleep acknowledgement. -/
  | sleep
deriving DecidableEq, Repr

/-- The host-level parameters of R9 and R159. `WAKE_ACK_LITERAL` must be supplied exactly when `WAKE_ACK_EXPECTED` is
`true`, so the two are one optional literal: none is the default, "fire-and-forget". The spec gives the literal no
value and neither does the model: a claim about it holds for every value of this argument (log entry 10). -/
structure HostParams where
  wakeAckLiteral : Option (Vector Byte 8) := none
deriving DecidableEq, Repr

/-- `WAKE_ACK_EXPECTED` (R9): whether the host reads an acknowledgement after a wake command. -/
def HostParams.wakeAckExpected (p : HostParams) : Bool := p.wakeAckLiteral.isSome

end Sys2Proof
end

