-- ==== Sys2Proof/Syntax.lean ====
section
/-! DEFINITION. The command set: one constructor per row of spec/opcode_table.json (30_encoding.md R62). -/

namespace Sys2Proof

/-- The seven commands of R62, with their operands as R63 to R68 give them. -/
inductive Instr where
  /-- `RDSTART <len>, <budget>`: start a fresh read (R63, R86). -/
  | rdstart (len8 : Byte) (budget : Half)
  /-- `FEEDB <byte>`: one received byte (R64, R94). -/
  | feedb (b : Byte)
  /-- `FEEDN`: the transport had no byte ready (R64, R95). -/
  | feedn
  /-- `FEEDF`: the transport reported a hard fault (R64, R96). -/
  | feedf
  /-- `ENCODE <opc>, <data>`: build a command frame (R65, R105). -/
  | encode (opc : Byte) (data : Half)
  /-- `PARSE`: validate and decode the telemetry frame in BUF (R66, R108). -/
  | parse
  /-- `ACKCMP <sel>`: compare the acknowledgement frame in BUF with a literal (R67, R113). -/
  | ackcmp (sel : AckSel)
deriving DecidableEq, Repr

end Sys2Proof
end

