-- ==== Sys2Proof/WellFormed.lean ====
section
/-! DEFINITION. Which commands the encoding admits: the one operand check of 30_encoding.md R63 and R71. The other
fields admit every value of their type (R64, R65), and SEL = 3 has no constructor (R67). -/

namespace Sys2Proof

/-- RDSTART's target length is legal from 3 to 32 (R63, R71); every other operand is legal. -/
def wellFormed : Instr → Bool
  | .rdstart len8 _ => decide (Config.lenMin ≤ len8.toNat) && decide (len8.toNat ≤ Config.maxLen)
  | .feedb _ => true
  | .feedn => true
  | .feedf => true
  | .encode _ _ => true
  | .parse => true
  | .ackcmp _ => true

end Sys2Proof
end

