-- ==== Sys2Proof/Decode.lean ====
section
/-! DEFINITION. Decoding a 32-bit command word (30_encoding.md R60 to R72), rejecting by name, and the encoder. -/

namespace Sys2Proof

/-- Why a word is illegal: the six cases of R71. A word to which several apply is rejected by the first of them that
the decoder meets; the block's behaviour is the same for all of them (60_exceptions.md R126; log entry 11). -/
inductive Reject where
  /-- OP is 0x0 or 0x6 to 0xF. -/
  | unassignedOp
  /-- A bit that no operand names is 1. -/
  | reservedBitSet
  /-- RDSTART with LEN8 below 3 or above 32. -/
  | lengthOutOfRange
  /-- FEED with KIND = 3. -/
  | feedKindIllegal
  /-- FEEDN or FEEDF with B ≠ 0. -/
  | feedByteNotZero
  /-- ACKCMP with SEL = 3. -/
  | selectorIllegal
deriving DecidableEq, Repr

/-! ### Fields of the command word (R61, R63 to R67) -/

/-- `OP = w[31:28]` (R61). -/
def fieldOp (w : Word) : BitVec 4 := w.extractLsb' 28 4

/-- `w[27:24]`, reserved in RDSTART and ENCODE (R63, R65). -/
def fieldReserved4 (w : Word) : BitVec 4 := w.extractLsb' 24 4

/-- `w[23:16]`, LEN8 of RDSTART and OPC of ENCODE (R63, R65). -/
def fieldByteHigh (w : Word) : Byte := w.extractLsb' 16 8

/-- `w[15:0]`, BUDGET of RDSTART and DATA of ENCODE (R63, R65). -/
def fieldHalf (w : Word) : Half := w.extractLsb' 0 16

/-- `w[27:10]`, reserved in FEED (R64). -/
def fieldReserved18 (w : Word) : BitVec 18 := w.extractLsb' 10 18

/-- `KIND = w[9:8]` of FEED (R64). -/
def fieldKind (w : Word) : BitVec 2 := w.extractLsb' 8 2

/-- `B = w[7:0]` of FEED (R64). -/
def fieldByte (w : Word) : Byte := w.extractLsb' 0 8

/-- `w[27:0]`, reserved in PARSE (R66). -/
def fieldReserved28 (w : Word) : BitVec 28 := w.extractLsb' 0 28

/-- `w[27:2]`, reserved in ACKCMP (R67). -/
def fieldReserved26 (w : Word) : BitVec 26 := w.extractLsb' 2 26

/-- `SEL = w[1:0]` of ACKCMP (R67). -/
def fieldSel (w : Word) : BitVec 2 := w.extractLsb' 0 2

/-! ### Decoding (R69) -/

/-- The RDSTART line of R69. -/
def decodeRdstart (w : Word) : Except Reject Instr :=
  if fieldReserved4 w = 0#4 then
    if Config.lenMin ≤ (fieldByteHigh w).toNat ∧ (fieldByteHigh w).toNat ≤ Config.maxLen then
      .ok (.rdstart (fieldByteHigh w) (fieldHalf w))
    else .error .lengthOutOfRange
  else .error .reservedBitSet

/-- The FEED lines of R69. -/
def decodeFeed (w : Word) : Except Reject Instr :=
  if fieldReserved18 w = 0#18 then
    if fieldKind w = 0#2 then .ok (.feedb (fieldByte w))
    else if fieldKind w = 1#2 then
      if fieldByte w = 0#8 then .ok .feedn else .error .feedByteNotZero
    else if fieldKind w = 2#2 then
      if fieldByte w = 0#8 then .ok .feedf else .error .feedByteNotZero
    else .error .feedKindIllegal
  else .error .reservedBitSet

/-- The ENCODE line of R69. -/
def decodeEncode (w : Word) : Except Reject Instr :=
  if fieldReserved4 w = 0#4 then .ok (.encode (fieldByteHigh w) (fieldHalf w))
  else .error .reservedBitSet

/-- The PARSE line of R69. -/
def decodeParse (w : Word) : Except Reject Instr :=
  if fieldReserved28 w = 0#28 then .ok .parse else .error .reservedBitSet

/-- The ACKCMP line of R69. -/
def decodeAckcmp (w : Word) : Except Reject Instr :=
  if fieldReserved26 w = 0#26 then
    if fieldSel w = 0#2 then .ok (.ackcmp .passive)
    else if fieldSel w = 1#2 then .ok (.ackcmp .active)
    else if fieldSel w = 2#2 then .ok (.ackcmp .sleep)
    else .error .selectorIllegal
  else .error .reservedBitSet

/-- `Decode` (R69), total on every 32-bit word: the OP map of R62, then the line of the command. -/
def decode (w : Word) : Except Reject Instr :=
  if fieldOp w = 0x1#4 then decodeRdstart w
  else if fieldOp w = 0x2#4 then decodeFeed w
  else if fieldOp w = 0x3#4 then decodeEncode w
  else if fieldOp w = 0x4#4 then decodeParse w
  else if fieldOp w = 0x5#4 then decodeAckcmp w
  else .error .unassignedOp

/-! ### Encoding (R63 to R67) -/

/-- The SEL code of an acknowledgement (R67). -/
def selCode : AckSel → BitVec 2
  | .passive => 0#2
  | .active => 1#2
  | .sleep => 2#2

/-- The word of a FEED command: OP = 0x2, KIND and B (R64). -/
def encodeFeed (kind : BitVec 2) (b : Byte) : Word := (0x2#4) ++ (0#18) ++ kind ++ b

/-- The command word of a command, from the patterns of R63 to R67. -/
def encode : Instr → Word
  | .rdstart len8 budget => (0x1#4) ++ (0#4) ++ len8 ++ budget
  | .feedb b => encodeFeed 0#2 b
  | .feedn => encodeFeed 1#2 0#8
  | .feedf => encodeFeed 2#2 0#8
  | .encode opc data => (0x3#4) ++ (0#4) ++ opc ++ data
  | .parse => (0x4#4) ++ (0#28)
  | .ackcmp sel => (0x5#4) ++ (0#26) ++ selCode sel

/-! ### The match and mask table (R70) -/

/-- One row of R70: the word is the command when `w & mask == match` and the extra condition holds. -/
structure TableRow where
  mnemonic : String
  pattern : Word
  mask : Word
  extra : Option Reject := none
deriving DecidableEq, Repr

/-- The extra conditions of R70: `3 <= w[23:16] <= 32` for RDSTART, `w[1:0] != 3` for ACKCMP, none for the others.
They are named by the rejection their failure gives. -/
def extraHolds (extra : Option Reject) (w : Word) : Bool :=
  match extra with
  | some .lengthOutOfRange =>
    decide (Config.lenMin ≤ (fieldByteHigh w).toNat) && decide ((fieldByteHigh w).toNat ≤ Config.maxLen)
  | some .selectorIllegal => decide (fieldSel w ≠ 3)
  | _ => true

/-- The seven rows of R70. -/
def matchTable : List TableRow :=
  [⟨"RDSTART", 0x10000000, 0xFF000000, some .lengthOutOfRange⟩,
   ⟨"FEEDB", 0x20000000, 0xFFFFFF00, none⟩,
   ⟨"FEEDN", 0x20000100, 0xFFFFFFFF, none⟩,
   ⟨"FEEDF", 0x20000200, 0xFFFFFFFF, none⟩,
   ⟨"ENCODE", 0x30000000, 0xFF000000, none⟩,
   ⟨"PARSE", 0x40000000, 0xFFFFFFFF, none⟩,
   ⟨"ACKCMP", 0x50000000, 0xFFFFFFFC, some .selectorIllegal⟩]

/-- `w & mask == match` and the extra condition (R70). -/
def rowMatches (w : Word) (r : TableRow) : Bool := decide (w &&& r.mask = r.pattern) && extraHolds r.extra w

/-- The mnemonic of a command, as spec/opcode_table.json spells it (R73). -/
def mnemonic : Instr → String
  | .rdstart _ _ => "RDSTART"
  | .feedb _ => "FEEDB"
  | .feedn => "FEEDN"
  | .feedf => "FEEDF"
  | .encode _ _ => "ENCODE"
  | .parse => "PARSE"
  | .ackcmp _ => "ACKCMP"

/-! ### The host's view of the decoder -/

/-- A table word as a command word: its low `nbits` bits, every bit above them 0 (log entry 13). -/
def tableWord (nbits w : Nat) : Word := BitVec.ofNat 32 (w % 2 ^ nbits)

/-- The command the decoder reads from a table word; `none` where it refuses. The word is taken whole and has no byte
order (30_encoding.md R60, 20_memory.md R45). -/
def decodeTableWord (nbits w : Nat) : Option Instr := (decode (tableWord nbits w)).toOption

end Sys2Proof
end

