-- ==== Sys2Proof/Machine/State.lean ====
section
/-! DEFINITION. The architectural state (10_state.md R21: complete by R37), its reset values (R38), and the reasons a
step could stop: none. -/

namespace Sys2Proof.Machine

/-- `PHASE` (R22): the six phases. Codes 6 and 7 are never held, so they have no constructor (R40; log entry 3). -/
inductive Phase where
  /-- No read in progress: after reset, before the first RDSTART. -/
  | idle
  | awaitingHeader1
  | awaitingHeader2
  | collecting
  | finished
  | failed
deriving DecidableEq, Repr

/-- `RESULT` (R27): the six result codes. Codes 6 and 7 are never written (R40; log entry 3). -/
inductive ResultCode where
  | ok
  | readFailed
  | checksumError
  | incorrectResponse
  | stateError
  | illegalOp
deriving DecidableEq, Repr

/-- The 17 telemetry field registers (R28). `m` holds T_M[1] to T_M[12]; T_M[k] is its element k - 1. -/
structure Telemetry where
  hdr1 : Byte
  hdr2 : Byte
  flen : Half
  m : Vector Half 12
  rsvd : Half
  csum : Half
deriving DecidableEq, Repr

/-- Every field register 0 (R29, R38). -/
def Telemetry.zero : Telemetry := ⟨0, 0, 0, Vector.replicate 12 0, 0, 0⟩

/-- What the host presents to the block in one step (00_scope.md R3, 70_reset_and_hazards.md R143). -/
inductive PortInput where
  /-- RST is not asserted and this command word is presented. -/
  | command (w : Word)
  /-- RST is asserted; a command word may be presented beside it. -/
  | rst (cmd : Option Word)
deriving DecidableEq, Repr

/-- One read outcome of the transport (R17, R87, R88): what a FEED command presents. -/
inductive ReadOutcome where
  | byte (b : Byte)
  | notReady
  | fault
deriving DecidableEq, Repr

/-- The state: every register of R21, and the host's inputs.

`port` is the MODEL's own field, not a register of the block (log entry 1): what the host presents, one entry per step,
the next step's first. The block itself holds no queue (R37); no command reads or writes `port`. -/
@[ext]
structure State where
  phase : Phase
  len : BitVec 6
  cursor : BitVec 6
  retry : BitVec 16
  buf : Vector Byte 32
  result : ResultCode
  tlmValid : Bool
  tlm : Telemetry
  csumCalc : Half
  txf : Vector Byte 7
  txfValid : Bool
  ackMatch : Bool
  port : List PortInput
deriving DecidableEq, Repr

/-- Right after RST (R38, R143): PHASE = Idle, RESULT = OK, every other register 0, and nothing presented yet. -/
def State.reset : State where
  phase := .idle
  len := 0
  cursor := 0
  retry := 0
  buf := Vector.replicate 32 0
  result := .ok
  tlmValid := false
  tlm := Telemetry.zero
  csumCalc := 0
  txf := Vector.replicate 7 0
  txfValid := false
  ackMatch := false
  port := []

/-- The registers of R21 by name, for the output view (R34). -/
inductive Reg where
  | phase
  | len
  | cursor
  | retry
  | buf (i : Fin 32)
  | result
  | tlmValid
  | tHdr1
  | tHdr2
  | tFlen
  /-- `T_M[k + 1]`. -/
  | tM (k : Fin 12)
  | tRsvd
  | tCsum
  | csumCalc
  | txf (i : Fin 7)
  | txfValid
  | ackMatch
deriving DecidableEq, Repr

/-- The width in bits of each register (R21). -/
def Reg.width : Reg → Nat
  | .phase => 3
  | .len => 6
  | .cursor => 6
  | .retry => 16
  | .buf _ => 8
  | .result => 3
  | .tlmValid => 1
  | .tHdr1 => 8
  | .tHdr2 => 8
  | .tFlen => 16
  | .tM _ => 16
  | .tRsvd => 16
  | .tCsum => 16
  | .csumCalc => 16
  | .txf _ => 8
  | .txfValid => 1
  | .ackMatch => 1

/-- Nothing stops the block: an error is a result code, never a trap (60_exceptions.md R121, R122), and an illegal word
is a step too (R126). So there is no fault: this type has no constructor, and `Outcome.fault` cannot occur (log entry
9). -/
inductive Fault where
deriving DecidableEq, Repr

/-- Refusals. None is raised: every command has its meaning. -/
inductive Refusal where
  /-- Raised by a dispatch arm whose instruction has no meaning yet (safe); no arm is left so. -/
  | notModelled (mnemonic : String)
deriving DecidableEq, Repr

end Sys2Proof.Machine
end

