-- ==== Sys2Proof/Machine/Flags.lean ====
section
/-! DEFINITION. The status bits (10_state.md R33): the block has no arithmetic flags; its status is PHASE, RESULT and
the validity bits. Here: their codes (R22, R27), the kinds of phases (R18), and the writes that keep a validity bit and
what it guards together (R29, R30). -/

namespace Sys2Proof.Machine

/-- The PHASE codes of R22. -/
def Phase.code : Phase → BitVec 3
  | .idle => 0
  | .awaitingHeader1 => 1
  | .awaitingHeader2 => 2
  | .collecting => 3
  | .finished => 4
  | .failed => 5

/-- The RESULT codes of R27. -/
def ResultCode.code : ResultCode → BitVec 3
  | .ok => 0
  | .readFailed => 1
  | .checksumError => 2
  | .incorrectResponse => 3
  | .stateError => 4
  | .illegalOp => 5

/-- Active phases: AwaitingHeader1, AwaitingHeader2, Collecting (R18, R22). -/
def Phase.isActive : Phase → Bool
  | .awaitingHeader1 => true
  | .awaitingHeader2 => true
  | .collecting => true
  | .idle => false
  | .finished => false
  | .failed => false

/-- Terminal phases: Finished, Failed (R18, R22). -/
def Phase.isTerminal : Phase → Bool
  | .finished => true
  | .failed => true
  | .idle => false
  | .awaitingHeader1 => false
  | .awaitingHeader2 => false
  | .collecting => false

/-- A one-bit register as a bit. -/
def bitOf (b : Bool) : BitVec 1 := BitVec.ofBool b

/-- `TLM_VALID <- 1` and the 17 field registers (41_codec.md R108, the match). -/
def setTelemetry (r : Telemetry) (s : State) : State := { s with tlm := r, tlmValid := true }

/-- `TLM_VALID <- 0` and every field register 0 (R29: mismatch, RDSTART). -/
def clearTelemetry (s : State) : State := { s with tlm := Telemetry.zero, tlmValid := false }

/-- `TXF <- f` and `TXF_VALID <- 1` (R30, 41_codec.md R105). -/
def setTxFrame (f : Vector Byte 7) (s : State) : State := { s with txf := f, txfValid := true }

end Sys2Proof.Machine
end

