-- ==== Sys2Proof/Machine/Ops.lean ====
section
/-! DEFINITION. The named operations over the byte arrays (00_scope.md R13, R14), the one way an error is taken
(R15, 60_exceptions.md R121), reset (70_reset_and_hazards.md R143), and taking what the host presents. -/

namespace Sys2Proof.Machine

/-! ### Byte arrays (R13, R43: big-endian) -/

/-- Bits 15:8 of a halfword. -/
def hiByte (v : Half) : Byte := v.extractLsb' 8 8

/-- Bits 7:0 of a halfword. -/
def loByte (v : Half) : Byte := v.extractLsb' 0 8

variable {n : Nat}

/-- `MemRead(S, i, 1)` (R13). -/
def memRead8 (F : Vector Byte n) (i : Nat) (h : i < n := by decide) : Byte := F[i]

/-- `MemRead(S, i, 2) = S[i] ++ S[i+1]`: the lower index holds the more significant byte (R13, R44). -/
def memRead16 (F : Vector Byte n) (i : Nat) (h : i + 1 < n := by decide) : Half := F[i] ++ F[i + 1]

/-- `MemWrite(S, i, 1, v)` (R13), as a total array update (20_memory.md R50): an index outside the array, which no
reachable state has, writes nothing (log entry 4). -/
def memWrite8 (F : Vector Byte n) (i : Nat) (v : Byte) : Vector Byte n := F.setIfInBounds i v

/-- `MemWrite(S, i, 2, v)`: the high byte at index i, the low byte at index i + 1 (R13). -/
def memWrite16 (F : Vector Byte n) (i : Nat) (v : Half) : Vector Byte n :=
  memWrite8 (memWrite8 F i (hiByte v)) (i + 1) (loByte v)

/-- `Sum(S, lo, hi)`: the sum of the bytes at indices lo to hi - 1, a natural number (R14). -/
def byteSum (F : Vector Byte n) (lo hi : Nat) : Nat := (((F.toList.take hi).drop lo).map BitVec.toNat).sum

/-- `Sum(S, lo, hi) mod 65536`. -/
def byteSum16 (F : Vector Byte n) (lo hi : Nat) : Half := BitVec.ofNat 16 (byteSum F lo hi)

/-! ### Results (R15, R121) -/

/-- `RESULT <- Res.OK`. -/
def complete (s : State) : State := { s with result := .ok }

/-- `raise E` (R15, R121): the block's whole exception entry. The code of E goes to RESULT; the writes made before
stand; nothing is vectored, saved or masked, so there is no return from it either (R132). -/
def raise (e : ResultCode) (s : State) : State := { s with result := e }

/-- An illegal word: `RESULT <- ILLEGAL_OP` and nothing else (R126). -/
def takeIllegalWord (s : State) : State := raise .illegalOp s

/-! ### Reset (R143) -/

/-- RST: every register takes its reset value (R38, R143). What the host presents later is not the block's, so it
stays. -/
def takeReset (s : State) : State := { State.reset with port := s.port }

/-! ### The command port (R3) -/

/-- What the host presents in this step, and the state with it taken off the port; `none` when it presents nothing. -/
def nextInput (s : State) : Option (PortInput × State) :=
  match s.port with
  | [] => none
  | i :: rest => some (i, { s with port := rest })

/-- The state in which the host presents the word next (log entry 13). -/
def presentNext (w : Word) (s : State) : State := { s with port := .command w :: s.port }

end Sys2Proof.Machine
end

