-- ==== Sys2Proof/Machine/Operands.lean ====
section
/-! DEFINITION. Operand assembly (30_encoding.md R68): every operand is an unsigned field taken as is. BUDGET, OPC, DATA
and B are used whole; LEN8 and SEL are turned into what the meanings use. -/

namespace Sys2Proof.Machine

/-- `LEN <- zext_6(LEN8[5:0])` (R68, R86). -/
def lenOperand (len8 : Byte) : BitVec 6 := len8.extractLsb' 0 6

/-- `AckLiteral(SEL)` (41_codec.md R114): the acknowledgement literals of 30_encoding.md R81, as 90_conflicts.md C1
corrects them (log entry 6). -/
def ackLiteral : AckSel → Vector Byte 8
  | .passive => #v[0x42, 0x4D, 0x00, 0x04, 0xE1, 0x00, 0x01, 0x74]
  | .active => #v[0x42, 0x4D, 0x00, 0x04, 0xE1, 0x01, 0x01, 0x75]
  | .sleep => #v[0x42, 0x4D, 0x00, 0x04, 0xE4, 0x00, 0x01, 0x77]

end Sys2Proof.Machine
end

