-- ==== Sys2Proof/Machine/Codec.lean ====
section
/-! DEFINITION. The frame codec: ENCODE, PARSE, ACKCMP (41_codec.md R105 to R115), and the wire frames
(30_encoding.md R75, R78). The pure functions are given for every input. -/

namespace Sys2Proof.Machine

/-! ### Command frame -/

/-- Bytes 0 to 4 of the command frame, bytes 5 and 6 still 0 (R106). -/
def cmdFrameBody (opc : Byte) (data : Half) : Vector Byte 7 :=
  memWrite16 #v[Config.hdr1, Config.hdr2, opc, 0, 0, 0, 0] 3 data

/-- `CmdFrame(opc, data)` (R106, R75): the checksum is `Sum(f, 0, 5) mod 65536`, big-endian. -/
def cmdFrame (opc : Byte) (data : Half) : Vector Byte 7 :=
  memWrite16 (cmdFrameBody opc data) 5 (byteSum16 (cmdFrameBody opc data) 0 Config.cmdSumLen)

/-- ENCODE (R105): legal in every phase, never fails. -/
def execEncode (opc : Byte) (data : Half) (s : State) : Host.Outcome State Fault Refusal :=
  .next (complete (setTxFrame (cmdFrame opc data) s))

/-! ### Telemetry frame -/

/-- `Sum(F, 0, 30) mod 65536` (R79, R109). -/
def telemetrySum (F : Vector Byte 32) : Half := byteSum16 F 0 Config.tlmSumLen

/-- The 17 fields of a telemetry frame at the indices of R78: T_M[k] is at index 2 + 2k, that is element k - 1 at
4 + 2(k - 1). -/
def telemetryFields (F : Vector Byte 32) : Telemetry where
  hdr1 := memRead8 F 0
  hdr2 := memRead8 F 1
  flen := memRead16 F 2
  m := Vector.ofFn fun k : Fin 12 => memRead16 F (4 + 2 * k.val) (by omega)
  rsvd := memRead16 F 28
  csum := memRead16 F 30

/-- `ParseTelemetry(F)` (R109): the record, or CHECKSUM_ERROR. Only the checksum is checked (R111). -/
def parseTelemetry (F : Vector Byte 32) : Except ResultCode Telemetry :=
  if memRead16 F 30 = telemetrySum F then .ok (telemetryFields F) else .error .checksumError

/-- PARSE once its precondition holds (R108). -/
def parseFrame (s : State) : State :=
  match parseTelemetry s.buf with
  | .ok r => complete (setTelemetry r { s with csumCalc := telemetrySum s.buf })
  | .error e => raise e (clearTelemetry { s with csumCalc := telemetrySum s.buf })

/-- PARSE (R108): without a finished 32-byte frame it is a state error and writes nothing else (60_exceptions.md
R127). -/
def execParse (s : State) : Host.Outcome State Fault Refusal :=
  if s.phase ≠ .finished ∨ s.len ≠ 32#6 then .next (raise .stateError s) else .next (parseFrame s)

/-- A telemetry record laid out by R78, with the checksum bytes as given in the record (R120). The block has no
telemetry encoder; this is the layout the laws speak of. -/
def telemetryLayout (r : Telemetry) : Vector Byte 32 :=
  Vector.ofFn fun i : Fin 32 =>
    let v : Half :=
      if i.val < 2 then r.hdr1 ++ r.hdr2
      else if i.val < 4 then r.flen
      else if h : i.val < 28 then r.m[(i.val - 4) / 2]
      else if i.val < 30 then r.rsvd
      else r.csum
    if i.val % 2 = 0 then hiByte v else loByte v

/-! ### Acknowledgement frame -/

/-- `BUF[i] == L[i] for every i in 0..7` (R113). -/
def bufMatches (L : Vector Byte 8) (buf : Vector Byte 32) : Bool :=
  decide (∀ i : Fin 8, buf[i.val] = L[i.val])

/-- ACKCMP once its precondition holds (R113). -/
def compareAck (sel : AckSel) (s : State) : State :=
  if bufMatches (ackLiteral sel) s.buf then complete { s with ackMatch := true }
  else raise .incorrectResponse { s with ackMatch := false }

/-- ACKCMP (R113): without a finished 8-byte frame it is a state error and writes nothing else (R127). -/
def execAckcmp (sel : AckSel) (s : State) : Host.Outcome State Fault Refusal :=
  if s.phase ≠ .finished ∨ s.len ≠ 8#6 then .next (raise .stateError s) else .next (compareAck sel s)

end Sys2Proof.Machine
end

