-- ==== Sys2Proof/Machine/Reader.lean ====
section
/-! DEFINITION. The resynchronizing reader: RDSTART, FEEDB, FEEDN, FEEDF (40_reader.md R85 to R97). The transition
rules hold for any two header values, equal ones included (00_scope.md R7), so they take them as arguments; the
meanings give them this hardware's. -/

namespace Sys2Proof.Machine

/-- `ConsumeRetry` (R91). -/
def consumeRetry (s : State) : State :=
  if s.retry = 0#16 then raise .readFailed { s with phase := .failed }
  else complete { s with retry := s.retry - 1#16 }

/-- `FeedAH1(b)` (R89). -/
def feedHeader1 (hdr1 b : Byte) (s : State) : State :=
  if b = hdr1 then complete { s with phase := .awaitingHeader2 }
  else consumeRetry s

/-- `FeedAH2(b)` (R90): HDR2 is tested first; no branch consumes retry. -/
def feedHeader2 (hdr1 hdr2 b : Byte) (s : State) : State :=
  if b = hdr2 then
    complete { s with
      buf := memWrite8 (memWrite8 s.buf 0 hdr1) 1 hdr2
      cursor := 2#6
      phase := .collecting }
  else complete { s with phase := .awaitingHeader1 }

/-- `FeedCollect(b)` (R92): every byte value is data; the completion test is on the value CURSOR takes. -/
def feedCollect (b : Byte) (s : State) : State :=
  complete { s with
    buf := memWrite8 s.buf s.cursor.toNat b
    cursor := s.cursor + 1#6
    phase := if s.cursor + 1#6 = s.len then .finished else s.phase }

/-- `ReaderStep(o)` (R87): one read outcome, one transition of the table of R85. -/
def readerStep (hdr1 hdr2 : Byte) (o : ReadOutcome) (s : State) : State :=
  match s.phase, o with
  | .idle, _ => s
  | .finished, _ => s
  | .failed, _ => s
  | .awaitingHeader1, .byte b => feedHeader1 hdr1 b s
  | .awaitingHeader2, .byte b => feedHeader2 hdr1 hdr2 b s
  | .collecting, .byte b => feedCollect b s
  | .awaitingHeader1, _ => consumeRetry s
  | .awaitingHeader2, _ => consumeRetry s
  | .collecting, _ => consumeRetry s

/-- `ReaderStep` with this hardware's header bytes (R7). -/
def feedOutcome (o : ReadOutcome) (s : State) : State := readerStep Config.hdr1 Config.hdr2 o s

/-- RDSTART's writes (R86): everything but TXF and TXF_VALID. -/
def startRead (len8 : Byte) (budget : Half) (s : State) : State :=
  complete (clearTelemetry { s with
    phase := .awaitingHeader1
    len := lenOperand len8
    cursor := 0#6
    retry := budget
    buf := Vector.replicate 32 0
    csumCalc := 0#16
    ackMatch := false })

/-- RDSTART (R86): legal in every phase, never fails once decoded. -/
def execRdstart (len8 : Byte) (budget : Half) (s : State) : Host.Outcome State Fault Refusal :=
  .next (startRead len8 budget s)

/-- FEEDB (R94): `ReaderStep(Byte(B))`. -/
def execFeedb (b : Byte) (s : State) : Host.Outcome State Fault Refusal := .next (feedOutcome (.byte b) s)

/-- FEEDN (R95): `ReaderStep(NotReady)`. -/
def execFeedn (s : State) : Host.Outcome State Fault Refusal := .next (feedOutcome .notReady s)

/-- FEEDF (R96): `ReaderStep(Fault)`; it consumes retry exactly as FEEDN does (90_conflicts.md C2; log entry 7). -/
def execFeedf (s : State) : Host.Outcome State Fault Refusal := .next (feedOutcome .fault s)

end Sys2Proof.Machine
end

