-- ==== Sys2Proof/Machine/Dispatch.lean ====
section
/-! DEFINITION. One arm per command (30_encoding.md R62). -/

namespace Sys2Proof.Machine

def exec (i : Instr) (s : State) : Host.Outcome State Fault Refusal :=
  match i with
  | .rdstart len8 budget => Sys2Proof.Machine.execRdstart len8 budget s
  | .feedb b => Sys2Proof.Machine.execFeedb b s
  | .feedn => Sys2Proof.Machine.execFeedn s
  | .feedf => Sys2Proof.Machine.execFeedf s
  | .encode opc data => Sys2Proof.Machine.execEncode opc data s
  | .parse => Sys2Proof.Machine.execParse s
  | .ackcmp sel => Sys2Proof.Machine.execAckcmp sel s

end Sys2Proof.Machine
end

