-- ==== Sys2Proof/Machine/Command.lean ====
section
/-! DEFINITION. One step's work: what the host presents is taken off the port, RST goes first, a legal word runs as its
command, an illegal word is taken as such (00_scope.md R3, 60_exceptions.md R126, R130). -/

namespace Sys2Proof.Machine

/-- One command word (R69, R126). -/
def runWord (w : Word) (s : State) : Host.Outcome State Fault Refusal :=
  match decode w with
  | .ok i => exec i s
  | .error _ => .next (takeIllegalWord s)

/-- One input: RST takes effect and discards the command beside it (R130, R143). -/
def runInput (i : PortInput) (s : State) : Host.Outcome State Fault Refusal :=
  match i with
  | .command w => runWord w s
  | .rst _ => .next (takeReset s)

/-- One step. When the host presents nothing the block waits, unchanged (R145; log entry 2). -/
def cycle (s : State) : Host.Outcome State Fault Refusal :=
  match nextInput s with
  | none => .next s
  | some (i, t) => runInput i t

end Sys2Proof.Machine
end

