-- ==== Sys2Proof/Machine/Step.lean ====
section
/-! DEFINITION. The step (00_scope.md R3): one command, or one reset, per step. -/

namespace Sys2Proof.Machine

/-- One step of the block. -/
def step (s : State) : Host.Outcome State Fault Refusal := cycle s

/-- The state whose next step takes the table word from the command port, as `decodeTableWord` reads it (log entry 13). -/
def State.withFetchWord (s : State) (nbits w : Nat) : State := presentNext (tableWord nbits w) s

end Sys2Proof.Machine
end

