-- ==== Sys2Proof/Machine/Assembler.lean ====
section
/-! DEFINITION. The host assembly (30_encoding.md R73) and its pseudo-instructions (R74): a line of text to command
words. What the spec leaves open about the text (spaces, letter case of numbers, blank lines) is log entry 12. -/

namespace Sys2Proof.Machine

/-! ### Pseudo-instructions (R74) -/

/-- The pseudo-instructions of R74. -/
inductive Pseudo where
  | rdtlm
  | rdack
  | encPassive
  | encActive
  | encRequest
  | encSleep
  | encWake
  | feeds (bs : List Byte)
deriving DecidableEq, Repr

/-- The commands a pseudo-instruction stands for (R74). -/
def Pseudo.expand : Pseudo → List Instr
  | .rdtlm => [.rdstart 32 100]
  | .rdack => [.rdstart 8 100]
  | .encPassive => [.encode 0xE1 0x0000]
  | .encActive => [.encode 0xE1 0x0001]
  | .encRequest => [.encode 0xE2 0x0000]
  | .encSleep => [.encode 0xE4 0x0000]
  | .encWake => [.encode 0xE4 0x0001]
  | .feeds bs => bs.map .feedb

/-! ### Operands as numbers: an operand that does not fit its field, or is illegal by R71, is refused -/

/-- A number as a field of `k` bits, refused where it does not fit. -/
def fitField (k v : Nat) : Option (BitVec k) := if v < 2 ^ k then some (BitVec.ofNat k v) else none

/-- `RDSTART <len>, <budget>`; a length outside 3 to 32 is refused (R73: "for example `RDSTART 2, 5`"). -/
def asmRdstart (len budget : Nat) : Option Instr :=
  match fitField 8 len, fitField 16 budget with
  | some l, some b => if wellFormed (.rdstart l b) then some (.rdstart l b) else none
  | _, _ => none

/-- `FEEDB <byte>`. -/
def asmFeedb (b : Nat) : Option Instr := (fitField 8 b).map .feedb

/-- `ENCODE <opc>, <data>`. -/
def asmEncode (opc data : Nat) : Option Instr :=
  match fitField 8 opc, fitField 16 data with
  | some o, some d => some (.encode o d)
  | _, _ => none

/-! ### Text -/

/-- A space or a tab. -/
def isBlank (c : Char) : Bool := c = ' ' || c = '\t'

/-- The line before its comment: `;` starts one (R73). -/
def stripComment (l : List Char) : List Char := l.takeWhile fun c => c ≠ ';'

/-- The text without blanks at its ends. -/
def trimBlanks (l : List Char) : List Char := ((l.dropWhile isBlank).reverse.dropWhile isBlank).reverse

/-- The pieces between commas. -/
def splitCommas : List Char → List (List Char)
  | [] => [[]]
  | c :: cs =>
    if c = ',' then [] :: splitCommas cs
    else
      match splitCommas cs with
      | [] => [[c]]
      | p :: ps => (c :: p) :: ps

/-- A digit's value in the given base. -/
def digitValue (base : Nat) (c : Char) : Option Nat :=
  let v :=
    if '0' ≤ c ∧ c ≤ '9' then some (c.toNat - '0'.toNat)
    else if 'a' ≤ c ∧ c ≤ 'f' then some (c.toNat - 'a'.toNat + 10)
    else if 'A' ≤ c ∧ c ≤ 'F' then some (c.toNat - 'A'.toNat + 10)
    else none
  v.filter fun d => d < base

/-- Digits to a number, the first digit the most significant. -/
def digitsValue (base : Nat) : List Char → Nat → Option Nat
  | [], acc => some acc
  | c :: cs, acc =>
    match digitValue base c with
    | some d => digitsValue base cs (acc * base + d)
    | none => none

/-- "Numbers are decimal, or hex with `0x`" (R73); a number has at least one digit. -/
def parseNumber : List Char → Option Nat
  | [] => none
  | ['0', 'x'] => none
  | '0' :: 'x' :: ds => digitsValue 16 ds 0
  | ds => digitsValue 10 ds 0

/-- Every operand as a number, or refused. -/
def parseNumbers : List (List Char) → Option (List Nat)
  | [] => some []
  | p :: ps =>
    match parseNumber p, parseNumbers ps with
    | some v, some vs => some (v :: vs)
    | _, _ => none

/-- The selector names of ACKCMP (R73). -/
def parseSelector (l : List Char) : Option AckSel :=
  if l = "PASSIVE".toList then some .passive
  else if l = "ACTIVE".toList then some .active
  else if l = "SLEEP".toList then some .sleep
  else none

/-- The bytes of `FEEDS b0, b1, ..., bn` (R74): at least one. -/
def parseBytes (ops : List (List Char)) : Option (List Byte) :=
  match parseNumbers ops with
  | some (v :: vs) => (v :: vs).mapM (fitField 8)
  | _ => none

/-- A command that takes no operand. -/
def withoutOperands (ops : List (List Char)) (is : List Instr) : Option (List Instr) :=
  if ops.isEmpty then some is else none

/-- One operand, a number. -/
def oneNumber (ops : List (List Char)) (f : Nat → Option Instr) : Option (List Instr) :=
  match parseNumbers ops with
  | some [a] => (f a).map fun i => [i]
  | _ => none

/-- Two operands, numbers. -/
def twoNumbers (ops : List (List Char)) (f : Nat → Nat → Option Instr) : Option (List Instr) :=
  match parseNumbers ops with
  | some [a, b] => (f a b).map fun i => [i]
  | _ => none

/-- A mnemonic and its operands: the commands of R73 and the pseudo-instructions of R74; anything else is refused. -/
def assembleOp (name : List Char) (ops : List (List Char)) : Option (List Instr) :=
  if name = "RDSTART".toList then twoNumbers ops asmRdstart
  else if name = "FEEDB".toList then oneNumber ops asmFeedb
  else if name = "FEEDN".toList then withoutOperands ops [.feedn]
  else if name = "FEEDF".toList then withoutOperands ops [.feedf]
  else if name = "ENCODE".toList then twoNumbers ops asmEncode
  else if name = "PARSE".toList then withoutOperands ops [.parse]
  else if name = "ACKCMP".toList then
    match ops with
    | [p] => (parseSelector p).map fun sel => [.ackcmp sel]
    | _ => none
  else if name = "RDTLM".toList then withoutOperands ops Pseudo.rdtlm.expand
  else if name = "RDACK".toList then withoutOperands ops Pseudo.rdack.expand
  else if name = "ENC_PASSIVE".toList then withoutOperands ops Pseudo.encPassive.expand
  else if name = "ENC_ACTIVE".toList then withoutOperands ops Pseudo.encActive.expand
  else if name = "ENC_REQUEST".toList then withoutOperands ops Pseudo.encRequest.expand
  else if name = "ENC_SLEEP".toList then withoutOperands ops Pseudo.encSleep.expand
  else if name = "ENC_WAKE".toList then withoutOperands ops Pseudo.encWake.expand
  else if name = "FEEDS".toList then (parseBytes ops).map fun bs => (Pseudo.feeds bs).expand
  else none

/-- One line to its commands: none for a blank line, a comment, or a `host:` line, which is a host action and no block
command (R73); `none` where the assembler refuses it. -/
def assembleLine (line : List Char) : Option (List Instr) :=
  let l := trimBlanks (stripComment line)
  if l.isEmpty then some []
  else if l.take 5 = "host:".toList then some []
  else
    let name := l.takeWhile fun c => !isBlank c
    let rest := trimBlanks (l.dropWhile fun c => !isBlank c)
    assembleOp name (if rest.isEmpty then [] else (splitCommas rest).map trimBlanks)

/-- One line to its command words (R73). -/
def assembleWords (line : List Char) : Option (List Word) := (assembleLine line).map fun is => is.map encode

end Sys2Proof.Machine
end

