-- ==== Sys2Proof/Machine/View.lean ====
section
/-! DEFINITION. The output view (10_state.md R34): every register of R21 readable at every step boundary, at its width
and with the codes of R22 and R27. Reading is a function of the state, so it has no side effect (20_memory.md R49). -/

namespace Sys2Proof.Machine

/-- What the host reads at a register's name. -/
def State.view (s : State) : (r : Reg) → BitVec r.width
  | .phase => s.phase.code
  | .len => s.len
  | .cursor => s.cursor
  | .retry => s.retry
  | .buf i => s.buf[i.val]
  | .result => s.result.code
  | .tlmValid => bitOf s.tlmValid
  | .tHdr1 => s.tlm.hdr1
  | .tHdr2 => s.tlm.hdr2
  | .tFlen => s.tlm.flen
  | .tM k => s.tlm.m[k.val]
  | .tRsvd => s.tlm.rsvd
  | .tCsum => s.tlm.csum
  | .csumCalc => s.csumCalc
  | .txf i => s.txf[i.val]
  | .txfValid => bitOf s.txfValid
  | .ackMatch => bitOf s.ackMatch

end Sys2Proof.Machine
end

