-- ==== Sys2Proof/Machine/HostSide.lean ====
section
/-! DEFINITION. What the spec says of reading the block's outputs from the host's side: the end of a read
(60_exceptions.md R142), when an output means something (70_reset_and_hazards.md R154), the host's names for errors
(60_exceptions.md R133), and the wake acknowledgement (70_reset_and_hazards.md R159). Nothing here changes the block. -/

namespace Sys2Proof.Machine

/-- The read has ended: PHASE is Finished or Failed (R142). -/
def readEnded (s : State) : Bool := s.phase.isTerminal

/-- The decoded record, meaningful only while `TLM_VALID == 1` (R154). -/
def validTelemetry (s : State) : Option Telemetry := if s.tlmValid then some s.tlm else none

/-- The encoded frame in the order the host sends it, `TXF[0]` first (20_memory.md R45), meaningful only while
`TXF_VALID == 1` (R154). -/
def validTxFrame (s : State) : Option (List Byte) := if s.txfValid then some s.txf.toList else none

/-- `BUF[0..LEN-1]` as a frame, meaningful only while `PHASE == Finished` (R154, 40_reader.md R104). -/
def finishedFrame (s : State) : Option (List Byte) :=
  if s.phase = .finished then some (s.buf.toList.take s.len.toNat) else none

/-- `ACK_MATCH`, meaningful only directly after an ACKCMP whose RESULT is OK or INCORRECT_RESPONSE (R154). -/
def validAckMatch (last : Instr) (s : State) : Option Bool :=
  match last, s.result with
  | .ackcmp _, .ok => some s.ackMatch
  | .ackcmp _, .incorrectResponse => some s.ackMatch
  | _, _ => none

/-- The source's error names (10_state.md R27, R133). -/
inductive HostError where
  /-- The transport faulted while the host sent TXF: the block never sees it, so no state of the block gives it. -/
  | sendFailed
  | readFailed
  | checksumError
  | incorrectResponse
  /-- READ_FAILED during an 8-byte acknowledgement read, and the STATE_ERROR of an ACKCMP after it. -/
  | noResponse
deriving DecidableEq, Repr

/-- The host's name for READ_FAILED, by what was awaited (92_eei_decisions.md D26, R133): NoResponse for an 8-byte
acknowledgement read, ReadFailed for a telemetry read. For a read of another length the spec gives no second name:
READ_FAILED keeps its own (log entry 15). -/
def readErrorName (len : BitVec 6) : HostError := if len.toNat = Config.ackLen then .noResponse else .readFailed

/-- The host's name for the STATE_ERROR of a command: an ACKCMP after a failed read is NoResponse (41_codec.md R113,
corner case); the spec gives no other state error a host name (log entry 15). -/
def stateErrorName (last : Instr) (s : State) : Option HostError :=
  match last, s.phase with
  | .ackcmp _, .failed => some .noResponse
  | _, _ => none

/-- The host's name for the block's RESULT (R27, R133, 92_eei_decisions.md D26), `last` being the command that wrote
it. -/
def hostError (last : Instr) (s : State) : Option HostError :=
  match s.result with
  | .ok => none
  | .readFailed => some (readErrorName s.len)
  | .checksumError => some .checksumError
  | .incorrectResponse => some .incorrectResponse
  | .stateError => stateErrorName last s
  | .illegalOp => none

/-- Whether the host takes a wake as done (R159): at once by default; with `WAKE_ACK_EXPECTED`, when an 8-byte frame
has been read that equals the host's own literal. -/
def wakeAccepted (p : HostParams) (s : State) : Bool :=
  match p.wakeAckLiteral with
  | none => true
  | some L => decide (s.phase = .finished) && decide (s.len = 8) && bufMatches L s.buf

end Sys2Proof.Machine
end

