-- ==== Sys2Proof/Safety.lean ====
section
/-! DEFINITION. The terms claims use: the invariants of 10_state.md R36 and R29 and what a model adds to them, the
presenting of commands and read outcomes to the port, and the interruptions of a read (00_scope.md R18). -/

namespace Sys2Proof.Machine

/-! ### Invariants -/

/-- R36, but for its last line, which speaks of the last RDSTART and is said with `lastBudget`; and the ranges of LEN and
CURSOR, which hold in every phase (R23, R24). -/
structure ReaderInv (s : State) : Prop where
  awaiting_cursor : s.phase = .awaitingHeader1 ∨ s.phase = .awaitingHeader2 → s.cursor = 0
  collecting : s.phase = .collecting →
    2 ≤ s.cursor.toNat ∧ s.cursor.toNat < s.len.toNat ∧ s.buf[0] = Config.hdr1 ∧ s.buf[1] = Config.hdr2
  finished : s.phase = .finished → s.cursor = s.len ∧ s.buf[0] = Config.hdr1 ∧ s.buf[1] = Config.hdr2
  length : s.phase ≠ .idle → 3 ≤ s.len.toNat ∧ s.len.toNat ≤ 32
  tail_zero : ∀ i : Fin 32, s.len.toNat ≤ i.val → s.buf[i.val] = 0
  awaiting_zero : s.phase = .awaitingHeader1 ∨ s.phase = .awaitingHeader2 → ∀ i : Fin 32, s.buf[i.val] = 0
  len_range : s.len.toNat ≤ 32
  cursor_range : s.cursor.toNat ≤ 32

/-- What the output registers always say of BUF (R29 to R32): a valid record is the one PARSE accepts of the finished
frame in BUF, an invalid one is all 0; CSUM_CALC is 0 or that frame's sum; a match is a match of the finished 8-byte
frame; TXF holds a command frame once valid, and 0 before. -/
structure OutputInv (s : State) : Prop where
  tlm_invalid : s.tlmValid = false → s.tlm = Telemetry.zero
  tlm_valid : s.tlmValid = true →
    s.phase = .finished ∧ s.len = 32 ∧ parseTelemetry s.buf = .ok s.tlm ∧ s.csumCalc = telemetrySum s.buf
  csum : s.csumCalc ≠ 0 → s.phase = .finished ∧ s.len = 32 ∧ s.csumCalc = telemetrySum s.buf
  ack : s.ackMatch = true → s.phase = .finished ∧ s.len = 8 ∧ ∃ sel, ∀ i : Fin 8, s.buf[i.val] = (ackLiteral sel)[i.val]
  txf_invalid : s.txfValid = false → s.txf = Vector.replicate 7 0
  txf_valid : s.txfValid = true → ∃ opc data, s.txf = cmdFrame opc data

/-- The same registers, whatever the host presents. -/
def sameRegisters (s t : State) : Prop := { s with port := [] } = { t with port := [] }

/-! ### Presenting commands -/

/-- The state in which the host presents these commands next, in order, one per step (20_memory.md R52). -/
def present (is : List Instr) (s : State) : State :=
  { s with port := is.map (fun i => .command (encode i)) ++ s.port }

/-- The FEED command of a read outcome (40_reader.md R88). -/
def feedInstr : ReadOutcome → Instr
  | .byte b => .feedb b
  | .notReady => .feedn
  | .fault => .feedf

/-- Presenting these read outcomes and stepping once for each. -/
def runFeeds (os : List ReadOutcome) (s : State) : Host.Outcome State Fault Refusal :=
  Host.Core.run Sys2Proof.core os.length (present (os.map feedInstr) s)

/-- Executing these commands one after another. -/
def execAll : List Instr → State → Host.Outcome State Fault Refusal
  | [], s => .next s
  | i :: is, s =>
    match exec i s with
    | .next t => execAll is t
    | .fault r => .fault r
    | .refused r => .refused r

/-! ### Interruptions and budgets -/

/-- An interruption (R18): not ready or a fault in an active phase, a byte that is no header byte in
AwaitingHeader1. -/
def isInterruption (p : Phase) : ReadOutcome → Bool
  | .byte b => decide (p = .awaitingHeader1) && decide (b ≠ Config.hdr1)
  | .notReady => p.isActive
  | .fault => p.isActive

/-- How many of the outcomes, fed in this order from this state, are interruptions. -/
def interruptions : List ReadOutcome → State → Nat
  | [], _ => 0
  | o :: os, s => (if isInterruption s.phase o then 1 else 0) + interruptions os (feedOutcome o s)

/-- The read outcome is no byte. -/
def ReadOutcome.isStall : ReadOutcome → Bool
  | .byte _ => false
  | .notReady => true
  | .fault => true

/-- The outcomes that bring these bytes, each after the stalls listed before it. -/
def burstStream : List (List ReadOutcome × Byte) → List ReadOutcome
  | [] => []
  | (stalls, b) :: rest => stalls ++ .byte b :: burstStream rest

/-- How many stalls a burst stream holds. -/
def burstStalls : List (List ReadOutcome × Byte) → Nat
  | [] => 0
  | (stalls, _) :: rest => stalls.length + burstStalls rest

/-- The BUDGET operand of the last RDSTART (R36), after one more input; RST leaves none, said as 0. -/
def budgetAfter (b : Half) : PortInput → Half
  | .rst _ => 0
  | .command w =>
    match decode w with
    | .ok (.rdstart _ budget) => budget
    | _ => b

/-- The BUDGET operand of the last RDSTART among these inputs, or the given one. -/
def lastBudget (b : Half) (ins : List PortInput) : Half := ins.foldl budgetAfter b

/-! ### What each command may write (10_state.md R35) -/

/-- Whether R35 lists the register for the command. -/
def mayWrite : Instr → Reg → Bool
  | .rdstart _ _, .txf _ => false
  | .rdstart _ _, .txfValid => false
  | .rdstart _ _, _ => true
  | .feedb _, .phase => true
  | .feedb _, .cursor => true
  | .feedb _, .retry => true
  | .feedb _, .buf _ => true
  | .feedb _, .result => true
  | .feedb _, _ => false
  | .feedn, .phase => true
  | .feedn, .retry => true
  | .feedn, .result => true
  | .feedn, _ => false
  | .feedf, .phase => true
  | .feedf, .retry => true
  | .feedf, .result => true
  | .feedf, _ => false
  | .encode _ _, .txf _ => true
  | .encode _ _, .txfValid => true
  | .encode _ _, .result => true
  | .encode _ _, _ => false
  | .parse, .tlmValid => true
  | .parse, .tHdr1 => true
  | .parse, .tHdr2 => true
  | .parse, .tFlen => true
  | .parse, .tM _ => true
  | .parse, .tRsvd => true
  | .parse, .tCsum => true
  | .parse, .csumCalc => true
  | .parse, .result => true
  | .parse, _ => false
  | .ackcmp _, .ackMatch => true
  | .ackcmp _, .result => true
  | .ackcmp _, _ => false

/-- Whether the command is one of the three FEED commands. -/
def isFeed : Instr → Bool
  | .feedb _ => true
  | .feedn => true
  | .feedf => true
  | .rdstart _ _ => false
  | .encode _ _ => false
  | .parse => false
  | .ackcmp _ => false

end Sys2Proof.Machine
end

