-- ==== Sys2Proof/Certificates/Slice0/Obligations.lean ====
section
/-! DEFINITION. The statements for the provers. Each docstring names the rules of spec/ it formalises. Rules that the
spec itself marks [derived] (R35, R36, R49, R50, R97 to R103, R107, R110, R112, R116 to R120, R123, R132, R154) are its
own inferences: the statements that formalise them have basis derived and cite the rules they follow from. -/

open Sys2Proof Sys2Proof.Machine

/-! ### Encoding -/

/-- Words written out in 95_test_vectors.md 2.1 from the formats R63 to R67, one or more per command, and illegal
neighbours of each. -/
def Obligations.DecodeReadsTheSpecsWords : Prop :=
  decode 0x10030000 = .ok (.rdstart 3 0) ∧ decode 0x10200064 = .ok (.rdstart 32 100) ∧
  decode 0x1004FFFF = .ok (.rdstart 4 65535) ∧ decode 0x200000FF = .ok (.feedb 0xFF) ∧
  decode 0x20000100 = .ok .feedn ∧ decode 0x20000200 = .ok .feedf ∧
  decode 0x30E10001 = .ok (.encode 0xE1 0x0001) ∧ decode 0x40000000 = .ok .parse ∧
  decode 0x50000000 = .ok (.ackcmp .passive) ∧ decode 0x50000001 = .ok (.ackcmp .active) ∧
  decode 0x50000002 = .ok (.ackcmp .sleep) ∧
  decode 0x00000000 = .error .unassignedOp ∧ decode 0x10020005 = .error .lengthOutOfRange ∧
  decode 0x10210000 = .error .lengthOutOfRange ∧ decode 0x11040002 = .error .reservedBitSet ∧
  decode 0x20000101 = .error .feedByteNotZero ∧ decode 0x20000300 = .error .feedKindIllegal ∧
  decode 0x20000400 = .error .reservedBitSet ∧ decode 0x31000000 = .error .reservedBitSet ∧
  decode 0x40000001 = .error .reservedBitSet ∧ decode 0x50000003 = .error .selectorIllegal ∧
  decode 0x50000004 = .error .reservedBitSet ∧ decode 0x60000000 = .error .unassignedOp ∧
  decode 0xFFFFFFFF = .error .unassignedOp

/-- R63 to R69: the decoder reads back every well-formed command, every operand at every value the encoding admits. -/
def Obligations.DecodeOfEncodeIsTheCommand : Prop :=
  ∀ i : Instr, wellFormed i = true → decode (encode i) = .ok i

/-- R69, R72: a word that decodes is exactly the encoding of the command it decodes to, and that command is
well-formed, so no bit of a legal word is ignored. -/
def Obligations.DecodedWordIsTheCommandsEncoding : Prop :=
  ∀ (w : Word) (i : Instr), decode w = .ok i → wellFormed i = true ∧ encode i = w

/-- R70: the match and mask table is the decoder; it has these rows, and at most one matches a word. -/
def Obligations.MatchMaskTableIsTheDecoder : Prop :=
  matchTable.map (fun r => (r.mnemonic, r.pattern, r.mask)) =
    [("RDSTART", 0x10000000, 0xFF000000), ("FEEDB", 0x20000000, 0xFFFFFF00), ("FEEDN", 0x20000100, 0xFFFFFFFF),
     ("FEEDF", 0x20000200, 0xFFFFFFFF), ("ENCODE", 0x30000000, 0xFF000000), ("PARSE", 0x40000000, 0xFFFFFFFF),
     ("ACKCMP", 0x50000000, 0xFFFFFFFC)] ∧
  (∀ r ∈ matchTable, ∀ w : Word, extraHolds r.extra w =
    (if r.mnemonic = "RDSTART" then
      decide (3 ≤ (w.extractLsb' 16 8).toNat) && decide ((w.extractLsb' 16 8).toNat ≤ 32)
    else if r.mnemonic = "ACKCMP" then decide (w.extractLsb' 0 2 ≠ 3)
    else true)) ∧
  ∀ w : Word, (matchTable.filter (rowMatches w)).map (fun r => r.mnemonic) =
    match decode w with
    | .ok i => [mnemonic i]
    | .error _ => []

/-- R71: a word is illegal exactly in the listed cases, and an illegal word raises ILLEGAL_OP and writes only
RESULT. -/
def Obligations.IllegalWordsAreExactlyTheListedOnes : Prop :=
  ∀ (w : Word) (s : State),
    let f (lo k : Nat) := (w.extractLsb' lo k).toNat
    let illegal :=
      (f 28 4 = 0x0 ∨ 0x6 ≤ f 28 4) ∨
      ((f 28 4 = 0x1 ∨ f 28 4 = 0x3) ∧ f 24 4 ≠ 0 ∨ f 28 4 = 0x2 ∧ f 10 18 ≠ 0 ∨
        f 28 4 = 0x4 ∧ f 0 28 ≠ 0 ∨ f 28 4 = 0x5 ∧ f 2 26 ≠ 0) ∨
      (f 28 4 = 0x1 ∧ (f 16 8 < 3 ∨ 32 < f 16 8)) ∨
      (f 28 4 = 0x2 ∧ f 8 2 = 3) ∨
      (f 28 4 = 0x2 ∧ (f 8 2 = 1 ∨ f 8 2 = 2) ∧ f 0 8 ≠ 0) ∨
      (f 28 4 = 0x5 ∧ f 0 2 = 3)
    ((∃ e, decode w = .error e) ↔ illegal) ∧
    (illegal → runWord w s = .next { s with result := .illegalOp })

/-! ### The step -/

/-- R3, R52, R69: the command word the host presents is taken off the port and runs as the command it decodes to. -/
def Obligations.StepRunsTheDecodedCommand : Prop :=
  ∀ (s : State) (w : Word) (i : Instr) (rest : List PortInput),
    s.port = .command w :: rest → decode w = .ok i → step s = exec i { s with port := rest }

/-- R126: an illegal word writes RESULT and nothing else. -/
def Obligations.IllegalWordWritesOnlyResult : Prop :=
  ∀ (s : State) (w : Word) (e : Reject) (rest : List PortInput),
    s.port = .command w :: rest → decode w = .error e →
      step s = .next { s with port := rest, result := .illegalOp }

/-- R143, R130: RST, from any state and with or without a command word beside it, gives every register its reset value;
the command is discarded; what the host presents later stays. -/
def Obligations.ResetPrecedesTheCommand : Prop :=
  ∀ (s : State) (c : Option Word) (rest : List PortInput), s.port = .rst c :: rest →
    ∃ t, step s = .next t ∧ t = { State.reset with port := rest } ∧ t.phase = .idle ∧ t.result = .ok ∧
      ∀ r, t.view r = 0

/-- R38: the reset values. -/
def Obligations.ResetValues : Prop :=
  State.reset.phase = .idle ∧ State.reset.len = 0 ∧ State.reset.cursor = 0 ∧ State.reset.retry = 0 ∧
  (∀ i : Fin 32, State.reset.buf[i.val] = 0) ∧ State.reset.result = .ok ∧ State.reset.tlmValid = false ∧
  State.reset.tlm.hdr1 = 0 ∧ State.reset.tlm.hdr2 = 0 ∧ State.reset.tlm.flen = 0 ∧
  (∀ k : Fin 12, State.reset.tlm.m[k.val] = 0) ∧ State.reset.tlm.rsvd = 0 ∧ State.reset.tlm.csum = 0 ∧
  State.reset.csumCalc = 0 ∧ (∀ i : Fin 7, State.reset.txf[i.val] = 0) ∧ State.reset.txfValid = false ∧
  State.reset.ackMatch = false

/-- The model's choice (log entry 2): while the host presents nothing, a step changes nothing. -/
def Obligations.WaitingBlockKeepsItsState : Prop :=
  ∀ s : State, s.port = [] → step s = .next s

/-- R121, R3: nothing stops the block: every step, from every state, answers a next state, and takes the presented input,
if there is one, off the port. That nothing stops the block is log entry 9 (DEDUCED). That a step with nothing presented
answers a next state is the model's choice, log entry 2 (DESIGN CHOICE), and so is the port, log entry 1. -/
def Obligations.EveryStepAnswersANextState : Prop :=
  ∀ s : State, ∃ t, step s = .next t ∧ t.port = s.port.tail

/-- R52: presented commands run in the order they are presented, one per step, each on the state the one before it
left; the later inputs are not touched. -/
def Obligations.PresentedCommandsRunInOrder : Prop :=
  ∀ (is : List Instr) (s : State), (∀ i ∈ is, wellFormed i = true) →
    Host.Core.run Sys2Proof.core is.length (present is s) = execAll is s ∧
    ∃ t, execAll is s = .next t ∧ t.port = s.port

/-! ### Invariants -/

/-- R36 holds after reset. -/
def Obligations.ReaderInvariantAtReset : Prop := ReaderInv State.reset

/-- R36 but for its last line: every step keeps it, whatever the host presents. -/
def Obligations.StepKeepsReaderInvariant : Prop :=
  ∀ s t : State, ReaderInv s → step s = .next t → ReaderInv t

/-- R36 whole, over every stream of inputs: the invariants hold at every step boundary, and RETRY is at most the BUDGET
operand of the last RDSTART. -/
def Obligations.EveryRunKeepsReaderInvariantAndBudget : Prop :=
  ∀ (ins : List PortInput) (b : Half) (s t : State), ReaderInv s → s.retry ≤ b →
    Host.Core.run Sys2Proof.core ins.length { s with port := ins } = .next t →
      ReaderInv t ∧ t.retry ≤ lastBudget b ins

/-- R29 to R32 hold after reset. -/
def Obligations.OutputInvariantAtReset : Prop := OutputInv State.reset

/-- R29 to R32: every step keeps what the output registers say: a record is valid exactly when it is the one PARSE
accepts of the finished frame in BUF, and all 0 otherwise; CSUM_CALC is 0 or that frame's sum; ACK_MATCH means a match
of the finished 8-byte frame; TXF holds a command frame once valid. -/
def Obligations.StepKeepsOutputInvariant : Prop :=
  ∀ s t : State, OutputInv s → step s = .next t → OutputInv t

/-! ### The reader -/

/-- R86: RDSTART, in every phase, starts a fresh read; TXF, TXF_VALID and the port are as before. For LEN8 outside 3 to
32, which R71 makes illegal and no word decodes to, that LEN takes LEN8[5:0] is the model's choice, log entry 17 (DESIGN
CHOICE). -/
def Obligations.RdstartStartsAFreshRead : Prop :=
  ∀ (len8 : Byte) (budget : Half) (s : State),
    exec (.rdstart len8 budget) s = .next
      { phase := .awaitingHeader1, len := len8.extractLsb' 0 6, cursor := 0, retry := budget
        buf := Vector.replicate 32 0, result := .ok, tlmValid := false
        tlm := { hdr1 := 0, hdr2 := 0, flen := 0, m := Vector.replicate 12 0, rsvd := 0, csum := 0 }
        csumCalc := 0, txf := s.txf, txfValid := s.txfValid, ackMatch := false, port := s.port }

/-- R103: what RDSTART leaves depends on no register but TXF and TXF_VALID: the read before it, its half-matched header
included, is forgotten, and the next byte 0x4D is an interruption or the end of the read, never a header match. (For LEN8
outside 3 to 32, which no word decodes to, `exec` of RDSTART is the model's choice, log entry 17.) -/
def Obligations.RdstartForgetsTheEarlierRead : Prop :=
  ∀ (len8 : Byte) (budget : Half) (s s' : State),
    s.txf = s'.txf → s.txfValid = s'.txfValid → s.port = s'.port →
      exec (.rdstart len8 budget) s = exec (.rdstart len8 budget) s' ∧
      ∃ t, execAll [.rdstart len8 budget, .feedb 0x4D] s = .next t ∧
        (t.phase = .awaitingHeader1 ∧ t.retry.toNat + 1 = budget.toNat ∨ t.phase = .failed ∧ budget = 0)

/-- R93: in Idle, Finished and Failed every FEED command writes no register, RESULT included. -/
def Obligations.FeedOutsideAReadWritesNothing : Prop :=
  ∀ (s : State) (o : ReadOutcome), s.phase = .idle ∨ s.phase = .finished ∨ s.phase = .failed →
    exec (feedInstr o) s = .next s

/-- R89: a byte in AwaitingHeader1, for any two header values; FEEDB is this with 0x42 and 0x4D. -/
def Obligations.ByteInAwaitingHeader1 : Prop :=
  ∀ (h1 h2 b : Byte) (s : State), s.phase = .awaitingHeader1 →
    readerStep h1 h2 (.byte b) s =
      (if b = h1 then { s with phase := .awaitingHeader2, result := .ok }
      else if s.retry = 0#16 then { s with phase := .failed, result := .readFailed }
      else { s with retry := s.retry - 1#16, result := .ok }) ∧
    exec (.feedb b) s = .next (readerStep 0x42 0x4D (.byte b) s)

/-- R90: a byte in AwaitingHeader2, for any two header values; FEEDB is this with 0x42 and 0x4D. HDR2 is tested first,
no branch consumes retry, and a mismatching byte is no new candidate. -/
def Obligations.ByteInAwaitingHeader2 : Prop :=
  ∀ (h1 h2 b : Byte) (s : State), s.phase = .awaitingHeader2 →
    readerStep h1 h2 (.byte b) s =
      (if b = h2 then
        { s with buf := (s.buf.set 0 h1).set 1 h2, cursor := 2#6, phase := .collecting, result := .ok }
      else { s with phase := .awaitingHeader1, result := .ok }) ∧
    exec (.feedb b) s = .next (readerStep 0x42 0x4D (.byte b) s)

/-- R92: a byte in Collecting is data, header values included: it goes to BUF[CURSOR], CURSOR goes up by one, and the
read is Finished when CURSOR reaches LEN. -/
def Obligations.ByteInCollecting : Prop :=
  ∀ (b : Byte) (s : State), ReaderInv s → s.phase = .collecting →
    ∃ h : s.cursor.toNat < 32, exec (.feedb b) s = .next
      { s with
        buf := s.buf.set s.cursor.toNat b h
        cursor := s.cursor + 1#6
        phase := if s.cursor.toNat + 1 = s.len.toNat then .finished else .collecting
        result := .ok }

/-- R91, R95: FEEDN in an active phase consumes retry, or fails the read when the budget is spent; PHASE is otherwise
unchanged, BUF and CURSOR always. -/
def Obligations.NotReadyConsumesRetry : Prop :=
  ∀ s : State, s.phase.isActive = true →
    (s.retry ≠ 0#16 → exec .feedn s = .next { s with retry := s.retry - 1#16, result := .ok }) ∧
    (s.retry = 0#16 → exec .feedn s = .next { s with phase := .failed, result := .readFailed })

/-- R91, R96: FEEDF in an active phase consumes retry, and does in every state exactly what FEEDN does: a hard fault is
not immediately fatal. -/
def Obligations.FaultConsumesRetryLikeNotReady : Prop :=
  ∀ s : State, exec .feedf s = exec .feedn s ∧
    (s.phase.isActive = true → s.retry ≠ 0#16 → exec .feedf s = .next { s with retry := s.retry - 1#16, result := .ok }) ∧
    (s.phase.isActive = true → s.retry = 0#16 →
      exec .feedf s = .next { s with phase := .failed, result := .readFailed })

/-- R97: a FEED that writes anything writes RESULT: READ_FAILED if and only if it moved PHASE to Failed in this step,
OK otherwise; a FEED that is a no-op leaves RESULT as it was. -/
def Obligations.ResultOfAFeed : Prop :=
  ∀ (o : ReadOutcome) (s t : State), exec (feedInstr o) s = .next t →
    (s.phase.isActive = true →
      (t.result = .readFailed ↔ t.phase = .failed) ∧ (t.result = .ok ↔ t.phase ≠ .failed)) ∧
    (s.phase.isActive = false → t = s)

/-- R7, R85 edge case (a): with two equal header bytes nothing is special: the byte is a first header in
AwaitingHeader1, and a fresh second header in AwaitingHeader2. -/
def Obligations.EqualHeaderBytesSynchronise : Prop :=
  ∀ (h : Byte) (s : State), s.phase = .awaitingHeader1 →
    readerStep h h (.byte h) (readerStep h h (.byte h) s) =
      { s with buf := (s.buf.set 0 h).set 1 h, cursor := 2#6, phase := .collecting, result := .ok }

/-- R98: failure is exact. From an active phase with RETRY = B, however the outcomes come: there are never more than
B + 1 interruptions, the read is Failed exactly when there were B + 1, and otherwise RETRY is B less their number. -/
def Obligations.FailureIsExact : Prop :=
  ∀ (os : List ReadOutcome) (s : State), s.phase.isActive = true →
    ∃ t, runFeeds os s = .next t ∧
      interruptions os s ≤ s.retry.toNat + 1 ∧
      (t.phase = .failed ↔ interruptions os s = s.retry.toNat + 1) ∧
      (t.phase ≠ .failed → t.retry.toNat = s.retry.toNat - interruptions os s) ∧
      (t.phase = .failed → t.retry = 0#16)

/-- R99: tolerance. From any state: RDSTART, then a stream that holds HDR1, HDR2 and the payload bytes, with stalls
anywhere and other bytes before HDR1, in all at most BUDGET of them: the read is Finished, BUF holds the frame, and
RETRY is BUDGET less their number. -/
def Obligations.ToleratedStreamFinishes : Prop :=
  ∀ (len8 : Byte) (budget : Half) (s : State) (noise stalls : List ReadOutcome)
    (payload : List (List ReadOutcome × Byte)),
    wellFormed (.rdstart len8 budget) = true →
    (∀ o ∈ noise, o ≠ .byte 0x42) → (∀ o ∈ stalls, o.isStall = true) →
    (∀ p ∈ payload, ∀ o ∈ p.1, o.isStall = true) →
    payload.length + 2 = len8.toNat →
    noise.length + stalls.length + burstStalls payload ≤ budget.toNat →
    let stream := noise ++ [.byte 0x42] ++ stalls ++ [.byte 0x4D] ++ burstStream payload
    ∃ t, Host.Core.run Sys2Proof.core (stream.length + 1)
        (present (.rdstart len8 budget :: stream.map feedInstr) s) = .next t ∧
      t.phase = .finished ∧
      t.buf.toList.take len8.toNat = 0x42 :: 0x4D :: payload.map Prod.snd ∧
      t.retry.toNat = budget.toNat - (noise.length + stalls.length + burstStalls payload)

/-- R100, R152: a doubled header 1 does not synchronise: after `42 42 4D` the reader is back in AwaitingHeader1, one
retry poorer, or Failed when it had none. -/
def Obligations.DoubledHeaderIsMissed : Prop :=
  ∀ s : State, s.phase = .awaitingHeader1 →
    runFeeds [.byte 0x42, .byte 0x42, .byte 0x4D] s = .next
      (if s.retry = 0#16 then { s with phase := .failed, result := .readFailed }
      else { s with retry := s.retry - 1#16, result := .ok })

/-- R101, R149: an alternation of HDR1 and a byte that is not HDR2, however long, keeps the read in AwaitingHeader1
with RETRY unchanged. -/
def Obligations.AlternationKeepsTheReadActive : Prop :=
  ∀ (xs : List Byte) (s : State), s.phase = .awaitingHeader1 → (∀ x ∈ xs, x ≠ 0x4D) → xs ≠ [] →
    runFeeds (xs.flatMap fun x => [.byte 0x42, .byte x]) s = .next { s with result := .ok }

/-- R101: a read that stays active for ever is fed, from some point on, an alternation of HDR1 and a byte that is not
HDR2; on every other infinite stream it reaches Finished or Failed. -/
def Obligations.OnlyAlternationNeverEnds : Prop :=
  ∀ (f : Nat → ReadOutcome) (s : State), ReaderInv s → s.phase.isActive = true →
    (∀ n, ∃ t, runFeeds ((List.range n).map f) s = .next t ∧ t.phase.isActive = true) →
    ∃ n, ∀ k, f (n + 2 * k) = .byte 0x42 ∧ ∃ x, x ≠ 0x4D ∧ f (n + 2 * k + 1) = .byte x

/-- R123, R91: PHASE becomes Failed in one way only: an active phase, no budget left; the step then writes READ_FAILED,
and RETRY, CURSOR, BUF and all else stay. -/
def Obligations.ReadFailsOnlyOnASpentBudget : Prop :=
  ∀ s t : State, step s = .next t → s.phase ≠ .failed → t.phase = .failed →
    s.phase.isActive = true ∧ s.retry = 0#16 ∧
      t = { s with phase := .failed, result := .readFailed, port := s.port.tail }

/-- R123, R132: Failed persists until RDSTART or reset. -/
def Obligations.FailedLastsUntilRdstartOrReset : Prop :=
  ∀ s t : State, s.phase = .failed → step s = .next t → t.phase ≠ .failed →
    (∃ len8 budget rest, wellFormed (.rdstart len8 budget) = true ∧
      s.port = .command (encode (.rdstart len8 budget)) :: rest) ∨
    (∃ c rest, s.port = .rst c :: rest)

/-- R30: only ENCODE and reset write TXF or TXF_VALID. -/
def Obligations.OnlyEncodeAndResetWriteTheTransmitFrame : Prop :=
  ∀ s t : State, step s = .next t → (t.txf ≠ s.txf ∨ t.txfValid ≠ s.txfValid) →
    (∃ opc data rest, s.port = .command (encode (.encode opc data)) :: rest) ∨
    (∃ c rest, s.port = .rst c :: rest)

/-- R35: each command writes only the registers R35 lists for it: every other register reads as before. FEEDB writes at
most BUF[0] and BUF[1] at the header match, or BUF[CURSOR]; a FEED in Idle, Finished or Failed writes nothing; an
illegal word writes RESULT only. No command touches what the host presents. -/
def Obligations.EachCommandWritesOnlyItsRegisters : Prop :=
  (∀ (i : Instr) (s t : State), exec i s = .next t →
    t.port = s.port ∧ ∀ r, mayWrite i r = false → t.view r = s.view r) ∧
  (∀ (b : Byte) (s t : State) (j : Fin 32), exec (.feedb b) s = .next t → t.buf[j.val] ≠ s.buf[j.val] →
    s.phase = .awaitingHeader2 ∧ j.val < 2 ∨ s.phase = .collecting ∧ j.val = s.cursor.toNat) ∧
  (∀ (o : ReadOutcome) (s t : State), s.phase.isActive = false → exec (feedInstr o) s = .next t → t = s) ∧
  (∀ (w : Word) (e : Reject) (s t : State) (r : Reg), decode w = .error e → runWord w s = .next t →
    r ≠ .result → t.view r = s.view r)

/-- R23, R24, R50, R117: in a state that meets the reader's invariants every byte FEEDB writes is below LEN, and in
Collecting CURSOR goes up by exactly one; and LEN and CURSOR are at most 32 in every phase, before and after every
step, whatever the host presents. -/
def Obligations.BufferWritesStayBelowLength : Prop :=
  (∀ (b : Byte) (s t : State), ReaderInv s → exec (.feedb b) s = .next t →
    (∀ j : Fin 32, t.buf[j.val] ≠ s.buf[j.val] → j.val < s.len.toNat) ∧
    (s.phase = .collecting → t.cursor.toNat = s.cursor.toNat + 1)) ∧
  (∀ s t : State, ReaderInv s → step s = .next t →
    s.len.toNat ≤ 32 ∧ s.cursor.toNat ≤ 32 ∧ t.len.toNat ≤ 32 ∧ t.cursor.toNat ≤ 32)

/-! ### The codec -/

/-- R105, R106, R75: ENCODE builds the command frame, its checksum the big-endian sum of the first five bytes, and
changes nothing else but TXF_VALID and RESULT. -/
def Obligations.EncodeBuildsTheCommandFrame : Prop :=
  ∀ (opc : Byte) (data : Half) (s : State),
    let hi := data.extractLsb' 8 8
    let lo := data.extractLsb' 0 8
    let cs : Half := BitVec.ofNat 16 (0x42 + 0x4D + opc.toNat + hi.toNat + lo.toNat)
    exec (.encode opc data) s = .next
      { s with
        txf := #v[0x42, 0x4D, opc, hi, lo, cs.extractLsb' 8 8, cs.extractLsb' 0 8]
        txfValid := true
        result := .ok }

/-- R107, R118: the embedded checksum is the plain sum of the first five bytes, between 143 and 908, so its high byte
is at most 3. -/
def Obligations.CommandChecksumIsThePlainSum : Prop :=
  ∀ (opc : Byte) (data : Half),
    let f := cmdFrame opc data
    let sum := f[0].toNat + f[1].toNat + f[2].toNat + f[3].toNat + f[4].toNat
    f[5].toNat * 256 + f[6].toNat = sum ∧ 143 ≤ sum ∧ sum ≤ 908 ∧ f[5].toNat ≤ 3

/-- R119: the command frame determines the opcode and the data. -/
def Obligations.CommandFrameIsInjective : Prop :=
  (∀ (opc opc' : Byte) (data data' : Half), cmdFrame opc data = cmdFrame opc' data' → opc = opc' ∧ data = data') ∧
  (∀ (opc : Byte) (data : Half),
    (cmdFrame opc data)[2] = opc ∧ (cmdFrame opc data)[3] ++ (cmdFrame opc data)[4] = data)

/-- R108, R109, R78: PARSE of a finished 32-byte frame whose stored checksum is the sum of its first 30 bytes decodes
the 17 fields. -/
def Obligations.ParseDecodesAValidFrame : Prop :=
  ∀ s : State, s.phase = .finished → s.len = 32#6 →
    let F := s.buf
    let sum : Half := BitVec.ofNat 16 (∑ i : Fin 30, (F[i.val]).toNat)
    F[30] ++ F[31] = sum →
      exec .parse s = .next
        { s with
          tlm :=
            { hdr1 := F[0], hdr2 := F[1], flen := F[2] ++ F[3]
              m := #v[F[4] ++ F[5], F[6] ++ F[7], F[8] ++ F[9], F[10] ++ F[11], F[12] ++ F[13], F[14] ++ F[15],
                F[16] ++ F[17], F[18] ++ F[19], F[20] ++ F[21], F[22] ++ F[23], F[24] ++ F[25], F[26] ++ F[27]]
              rsvd := F[28] ++ F[29], csum := F[30] ++ F[31] }
          tlmValid := true
          csumCalc := sum
          result := .ok }

/-- R108, R124: PARSE of a finished 32-byte frame with any other checksum withholds the record: every field register is
0, TLM_VALID is 0, CSUM_CALC is the sum, RESULT is CHECKSUM_ERROR, all else as before. -/
def Obligations.ParseWithholdsABadFrame : Prop :=
  ∀ s : State, s.phase = .finished → s.len = 32#6 →
    let sum : Half := BitVec.ofNat 16 (∑ i : Fin 30, (s.buf[i.val]).toNat)
    s.buf[30] ++ s.buf[31] ≠ sum →
      exec .parse s = .next
        { s with
          tlm := { hdr1 := 0, hdr2 := 0, flen := 0, m := Vector.replicate 12 0, rsvd := 0, csum := 0 }
          tlmValid := false
          csumCalc := sum
          result := .checksumError }

/-- R127: PARSE without a finished 32-byte frame and ACKCMP without a finished 8-byte frame write STATE_ERROR and
nothing else. -/
def Obligations.CodecRefusesAnUnfinishedFrame : Prop :=
  (∀ s : State, s.phase ≠ .finished ∨ s.len ≠ 32#6 → exec .parse s = .next { s with result := .stateError }) ∧
  (∀ (sel : AckSel) (s : State), s.phase ≠ .finished ∨ s.len ≠ 8#6 →
    exec (.ackcmp sel) s = .next { s with result := .stateError })

/-- R110: ParseTelemetry accepts a frame exactly when its last two bytes, big-endian, are the unreduced sum of the
first 30; a frame whose byte 30 is 0x1E or more always fails. -/
def Obligations.ParseAcceptsExactlyTheTrueSum : Prop :=
  ∀ F : Vector Byte 32,
    ((∃ r, parseTelemetry F = .ok r) ↔ F[30].toNat * 256 + F[31].toNat = ∑ i : Fin 30, (F[i.val]).toNat) ∧
    ((¬ ∃ r, parseTelemetry F = .ok r) ↔ parseTelemetry F = .error .checksumError) ∧
    (0x1E ≤ F[30].toNat → parseTelemetry F = .error .checksumError)

/-- R112, R110: of a valid frame F, a changed frame G still passes exactly when the change moves the sum of bytes 0 to 29
and the stored checksum by the same amount. So: with bytes 30 and 31 unchanged G passes exactly when the sum is the same;
a change of one byte is always detected; a permutation of bytes 0 to 29 never is. -/
def Obligations.ChecksumMissesExactlyBalancedChanges : Prop :=
  (∀ (F G : Vector Byte 32) (r : Telemetry), parseTelemetry F = .ok r →
    ((∃ r', parseTelemetry G = .ok r') ↔
      (∑ i : Fin 30, (G[i.val]).toNat) + (F[30].toNat * 256 + F[31].toNat) =
        (∑ i : Fin 30, (F[i.val]).toNat) + (G[30].toNat * 256 + G[31].toNat))) ∧
  (∀ (F G : Vector Byte 32) (r : Telemetry), parseTelemetry F = .ok r → F[30] = G[30] → F[31] = G[31] →
    ((∃ r', parseTelemetry G = .ok r') ↔ (∑ i : Fin 30, (F[i.val]).toNat) = (∑ i : Fin 30, (G[i.val]).toNat))) ∧
  (∀ (F : Vector Byte 32) (r : Telemetry) (j : Fin 32) (b : Byte), parseTelemetry F = .ok r → b ≠ F[j.val] →
    parseTelemetry (F.set j.val b) = .error .checksumError) ∧
  (∀ (F G : Vector Byte 32) (r : Telemetry), parseTelemetry F = .ok r →
    (F.toList.take 30).Perm (G.toList.take 30) → F[30] = G[30] → F[31] = G[31] → ∃ r', parseTelemetry G = .ok r')

/-- R120, R78: a record laid out as a telemetry frame, with the sum of its first 30 bytes as its checksum, parses back
to exactly that record; the layout is R78's. -/
def Obligations.TelemetryFrameRoundTrips : Prop :=
  ∀ r : Telemetry,
    let F := telemetryLayout r
    (F[0] = r.hdr1 ∧ F[1] = r.hdr2 ∧ F[2] ++ F[3] = r.flen ∧
      (∀ k : Fin 12, F[4 + 2 * k.val] ++ F[5 + 2 * k.val] = r.m[k.val]) ∧
      F[28] ++ F[29] = r.rsvd ∧ F[30] ++ F[31] = r.csum) ∧
    (r.csum.toNat = ∑ i : Fin 30, (F[i.val]).toNat → parseTelemetry F = .ok r) ∧
    (∃ c : Half, c.toNat = ∑ i : Fin 30, ((telemetryLayout { r with csum := c })[i.val]).toNat)

/-- R113, R114, R81: ACKCMP of a finished 8-byte frame compares BUF[0..7] with the selected literal. -/
def Obligations.AckcmpComparesTheSelectedLiteral : Prop :=
  ∀ (sel : AckSel) (s : State), s.phase = .finished → s.len = 8#6 →
    let literal : Vector Byte 8 :=
      match sel with
      | .passive => #v[0x42, 0x4D, 0x00, 0x04, 0xE1, 0x00, 0x01, 0x74]
      | .active => #v[0x42, 0x4D, 0x00, 0x04, 0xE1, 0x01, 0x01, 0x75]
      | .sleep => #v[0x42, 0x4D, 0x00, 0x04, 0xE4, 0x00, 0x01, 0x77]
    ((∀ i : Fin 8, s.buf[i.val] = literal[i.val]) →
      exec (.ackcmp sel) s = .next { s with ackMatch := true, result := .ok }) ∧
    ((¬ ∀ i : Fin 8, s.buf[i.val] = literal[i.val]) →
      exec (.ackcmp sel) s = .next { s with ackMatch := false, result := .incorrectResponse })

/-- R113: on one BUF at most one selector matches. -/
def Obligations.AtMostOneSelectorMatches : Prop :=
  ∀ (sel sel' : AckSel) (s t t' : State), exec (.ackcmp sel) s = .next t → exec (.ackcmp sel') s = .next t' →
    t.result = .ok → t'.result = .ok → sel = sel'

/-- R116: the codec commands change no reader register; what ENCODE writes depends on no register; what PARSE and
ACKCMP write depends on PHASE, LEN and BUF only. -/
def Obligations.CodecIsIndependentOfTheReader : Prop :=
  (∀ (i : Instr) (s t : State), (∃ opc data, i = .encode opc data) ∨ i = .parse ∨ (∃ sel, i = .ackcmp sel) →
    exec i s = .next t →
      t.phase = s.phase ∧ t.len = s.len ∧ t.cursor = s.cursor ∧ t.retry = s.retry ∧ t.buf = s.buf) ∧
  (∀ (opc : Byte) (data : Half) (s s' t t' : State), exec (.encode opc data) s = .next t →
    exec (.encode opc data) s' = .next t' → t.txf = t'.txf ∧ t.txfValid = t'.txfValid ∧ t.result = t'.result) ∧
  (∀ (i : Instr) (s s' t t' : State), i = .parse ∨ (∃ sel, i = .ackcmp sel) →
    s.phase = s'.phase → s.len = s'.len → s.buf = s'.buf → exec i s = .next t → exec i s' = .next t' →
      t.result = t'.result ∧
      (i = .parse → t.result ≠ .stateError →
        t.tlm = t'.tlm ∧ t.tlmValid = t'.tlmValid ∧ t.csumCalc = t'.csumCalc) ∧
      (i ≠ .parse → t.result ≠ .stateError → t.ackMatch = t'.ackMatch))

/-- R116: a command frame can be encoded at any point of a read, and the read goes on unchanged: ENCODE before or after
a read outcome makes no difference but to RESULT. -/
def Obligations.EncodingDuringAReadCommutes : Prop :=
  ∀ (opc : Byte) (data : Half) (o : ReadOutcome) (s t t' : State),
    execAll [.encode opc data, feedInstr o] s = .next t → execAll [feedInstr o, .encode opc data] s = .next t' →
      { t with result := t'.result } = t'

/-- R49: RDSTART, ENCODE, PARSE and ACKCMP repeated with the same operands change nothing more; FEEDB, FEEDN and FEEDF
are not idempotent. -/
def Obligations.RepeatingACommandIsIdempotent : Prop :=
  (∀ (i : Instr) (s t : State), isFeed i = false → exec i s = .next t → exec i t = .next t) ∧
  (∀ o : ReadOutcome, ∃ s t, exec (feedInstr o) s = .next t ∧ exec (feedInstr o) t ≠ .next t)

/-- R129: legality is decided first, then the phase and length of PARSE and ACKCMP, then the command's own outcome. An
illegal word is ILLEGAL_OP whatever the state; PARSE and ACKCMP are STATE_ERROR exactly without their frame, and report
their own outcome with it; RDSTART and ENCODE report OK; a FEED reports READ_FAILED or OK as its own outcome, or, in Idle,
Finished and Failed, writes nothing. -/
def Obligations.ChecksApplyInTheStatedOrder : Prop :=
  ∀ (w : Word) (s t : State), runWord w s = .next t →
    (∀ e, decode w = .error e → t.result = .illegalOp) ∧
    (decode w = .ok .parse →
      if s.phase ≠ .finished ∨ s.len ≠ 32#6 then t.result = .stateError
      else t.result = .ok ∨ t.result = .checksumError) ∧
    (∀ sel, decode w = .ok (.ackcmp sel) →
      if s.phase ≠ .finished ∨ s.len ≠ 8#6 then t.result = .stateError
      else t.result = .ok ∨ t.result = .incorrectResponse) ∧
    (∀ len8 budget, decode w = .ok (.rdstart len8 budget) → t.result = .ok) ∧
    (∀ opc data, decode w = .ok (.encode opc data) → t.result = .ok) ∧
    (∀ o, decode w = .ok (feedInstr o) →
      if s.phase.isActive then
        t.result = .readFailed ∧ t.phase = .failed ∨ t.result = .ok ∧ t.phase ≠ .failed
      else t = s) ∧
    (∀ i, decode w = .ok i → t.result ≠ .illegalOp ∨ t = s)

/-! ### Observation -/

/-- R34, R37: the output view shows every register and nothing else: two states read alike at every register exactly
when they hold the same registers. -/
def Obligations.ViewShowsExactlyTheRegisters : Prop :=
  ∀ s t : State, (∀ r, s.view r = t.view r) ↔ sameRegisters s t

/-- R37, R52: the registers and the next input determine the next registers: no hidden state, and no later input, can
change them. -/
def Obligations.RegistersDetermineTheNextRegisters : Prop :=
  ∀ s s' t t' : State, sameRegisters s s' → s.port.head? = s'.port.head? →
    step s = .next t → step s' = .next t' → sameRegisters t t'

/-- R154, R104: read under their conditions, the outputs are what they say: a valid record is the one the finished
32-byte frame in BUF decodes to, and a finished frame is LEN bytes that begin with the header. -/
def Obligations.ValidOutputsDescribeTheFrame : Prop :=
  ∀ s : State, ReaderInv s → OutputInv s →
    (∀ r, validTelemetry s = some r → finishedFrame s = some s.buf.toList ∧ parseTelemetry s.buf = .ok r) ∧
    (∀ f, finishedFrame s = some f → f.length = s.len.toNat ∧ f.take 2 = [0x42, 0x4D]) ∧
    (∀ f, validTxFrame s = some f → ∃ opc data, f = (cmdFrame opc data).toList)

/-- R113 (its corner case), R133: the host's name for the failure of an 8-byte acknowledgement read is NoResponse, at the
FEED that fails it, and so is an ACKCMP after a failed read, which the block refuses with STATE_ERROR; for a 32-byte
telemetry read the FEED's failure is ReadFailed. -/
def Obligations.FailedAcknowledgementReadIsNoResponse : Prop :=
  (∀ (o : ReadOutcome) (s t : State), exec (feedInstr o) s = .next t → s.phase.isActive = true → t.phase = .failed →
    (s.len = 8#6 → hostError (feedInstr o) t = some .noResponse) ∧
    (s.len = 32#6 → hostError (feedInstr o) t = some .readFailed)) ∧
  (∀ (sel : AckSel) (s : State), s.phase = .failed →
    ∃ t, exec (.ackcmp sel) s = .next t ∧ t.result = .stateError ∧ hostError (.ackcmp sel) t = some .noResponse)

/-! ### The host assembly -/

/-- R74: the pseudo-instructions and their words. -/
def Obligations.PseudoInstructionsHaveTheSpecsWords : Prop :=
  Pseudo.rdtlm.expand.map encode = [0x10200064] ∧ Pseudo.rdack.expand.map encode = [0x10080064] ∧
  Pseudo.encPassive.expand.map encode = [0x30E10000] ∧ Pseudo.encActive.expand.map encode = [0x30E10001] ∧
  Pseudo.encRequest.expand.map encode = [0x30E20000] ∧ Pseudo.encSleep.expand.map encode = [0x30E40000] ∧
  Pseudo.encWake.expand.map encode = [0x30E40001] ∧
  ∀ bs : List Byte, (Pseudo.feeds bs).expand.map encode = bs.map fun b => (0x200000#24) ++ b

/-- R73: a number assembles exactly when it fits its field and the word is legal, and it assembles to the value
written. -/
def Obligations.AssemblerRefusesOperandsThatDoNotFit : Prop :=
  (∀ (len budget : Nat) (i : Instr), asmRdstart len budget = some i ↔
    (3 ≤ len ∧ len ≤ 32 ∧ budget < 65536 ∧ i = .rdstart (BitVec.ofNat 8 len) (BitVec.ofNat 16 budget))) ∧
  (∀ (b : Nat) (i : Instr), asmFeedb b = some i ↔ (b < 256 ∧ i = .feedb (BitVec.ofNat 8 b))) ∧
  (∀ (opc data : Nat) (i : Instr), asmEncode opc data = some i ↔
    (opc < 256 ∧ data < 65536 ∧ i = .encode (BitVec.ofNat 8 opc) (BitVec.ofNat 16 data)))

/-- R73, R71: every word the assembler makes of a line is a legal command word. -/
def Obligations.AssembledWordsAreLegal : Prop :=
  ∀ (line : List Char) (ws : List Word), assembleWords line = some ws →
    ∀ w ∈ ws, ∃ i, decode w = .ok i ∧ encode i = w
end

