-- ==== Sys2Proof/Laws/Decode.lean ====
section
/-! SUPPORT. The fields of the words the encoder builds, said once for each format (30_encoding.md R63 to R67). -/

namespace Sys2Proof

/-- The field that starts at bit `lo` of a word, as a number. -/
theorem field_toNat (w : Word) (lo k : Nat) : (w.extractLsb' lo k).toNat = w.toNat / 2 ^ lo % 2 ^ k := by
  simp [BitVec.extractLsb'_toNat, Nat.shiftRight_eq_div_pow]

/-- The value of the RDSTART and ENCODE formats. -/
theorem byteHalf_toNat (op : BitVec 4) (a : Byte) (d : Half) :
    (op ++ (0#4) ++ a ++ d : Word).toNat = op.toNat * 2 ^ 28 + a.toNat * 2 ^ 16 + d.toNat := by
  have ha := a.isLt
  have hd := d.isLt
  simp only [BitVec.toNat_append, BitVec.toNat_ofNat]
  rw [← Nat.shiftLeft_add_eq_or_of_lt hd, ← Nat.shiftLeft_add_eq_or_of_lt ha,
    ← Nat.shiftLeft_add_eq_or_of_lt (by omega : 0 % 2 ^ 4 < 2 ^ 4)]
  simp only [Nat.shiftLeft_eq]
  omega

/-- The value of the FEED format. -/
theorem encodeFeed_toNat (k : BitVec 2) (b : Byte) :
    (encodeFeed k b).toNat = 2 * 2 ^ 28 + k.toNat * 2 ^ 8 + b.toNat := by
  have hk := k.isLt
  have hb := b.isLt
  simp only [encodeFeed, BitVec.toNat_append, BitVec.toNat_ofNat]
  rw [← Nat.shiftLeft_add_eq_or_of_lt hb, ← Nat.shiftLeft_add_eq_or_of_lt hk,
    ← Nat.shiftLeft_add_eq_or_of_lt (by omega : 0 % 2 ^ 18 < 2 ^ 18)]
  simp only [Nat.shiftLeft_eq]
  omega

/-- A row of R70 whose mask keeps bits 31 down to `lo`: the word matches when it is the pattern above bit `lo`. -/
theorem and_highMask_eq (w m p : Word) (lo : Nat) (hm : m = BitVec.allOnes 32 <<< lo) (hp : p.toNat % 2 ^ lo = 0) :
    w &&& m = p ↔ w.toNat / 2 ^ lo = p.toNat / 2 ^ lo := by
  subst hm
  have e : w &&& (BitVec.allOnes 32 <<< lo) = (w >>> lo) <<< lo := by
    ext i hi
    simp only [BitVec.getElem_and, BitVec.getElem_shiftLeft, BitVec.getElem_allOnes, BitVec.getElem_ushiftRight]
    by_cases h : i < lo
    · simp [h]
    · simp [h, show lo + (i - lo) = i by omega, BitVec.getLsbD_eq_getElem hi]
  have hw := w.isLt
  have h1 : w.toNat / 2 ^ lo * 2 ^ lo ≤ w.toNat := Nat.div_mul_le_self _ _
  have h2 : p.toNat / 2 ^ lo * 2 ^ lo = p.toNat := Nat.div_mul_cancel (Nat.dvd_of_mod_eq_zero hp)
  rw [e, ← BitVec.toNat_inj]
  simp only [BitVec.toNat_shiftLeft, BitVec.toNat_ushiftRight, Nat.shiftRight_eq_div_pow, Nat.shiftLeft_eq]
  rw [Nat.mod_eq_of_lt (by omega)]
  constructor
  · intro h
    rw [← h, Nat.mul_div_cancel _ (by positivity)]
  · intro h
    rw [h, h2]

/-- The word of a FEED command with KIND 0 decodes to FEEDB (R64, R69). -/
theorem decode_encode_feedb (b : Byte) : decode (encode (.feedb b)) = .ok (.feedb b) := by
  have hb := b.isLt
  have e := encodeFeed_toNat 0#2 b
  have h1 : fieldOp (encode (.feedb b)) = 2#4 := by
    apply BitVec.eq_of_toNat_eq
    rw [fieldOp, field_toNat, encode, e]
    simp
    omega
  have h2 : fieldReserved18 (encode (.feedb b)) = 0#18 := by
    apply BitVec.eq_of_toNat_eq
    rw [fieldReserved18, field_toNat, encode, e]
    simp
    omega
  have h3 : fieldKind (encode (.feedb b)) = 0#2 := by
    apply BitVec.eq_of_toNat_eq
    rw [fieldKind, field_toNat, encode, e]
    simp
    omega
  have h4 : fieldByte (encode (.feedb b)) = b := by
    apply BitVec.eq_of_toNat_eq
    rw [fieldByte, field_toNat, encode, e]
    simp
    omega
  simp [decode, h1, decodeFeed, h2, h3, h4]

end Sys2Proof
end

