-- ==== Sys2Proof/Laws/State.lean ====
section
/-! SUPPORT. One lemma per field per named update of State, true by rfl, so that no proof unfolds an update. -/

namespace Sys2Proof.Machine

/-! ### complete -/

@[simp] theorem complete_phase (s : State) : (complete s).phase = s.phase := rfl
@[simp] theorem complete_len (s : State) : (complete s).len = s.len := rfl
@[simp] theorem complete_cursor (s : State) : (complete s).cursor = s.cursor := rfl
@[simp] theorem complete_retry (s : State) : (complete s).retry = s.retry := rfl
@[simp] theorem complete_buf (s : State) : (complete s).buf = s.buf := rfl
@[simp] theorem complete_result (s : State) : (complete s).result = .ok := rfl
@[simp] theorem complete_tlmValid (s : State) : (complete s).tlmValid = s.tlmValid := rfl
@[simp] theorem complete_tlm (s : State) : (complete s).tlm = s.tlm := rfl
@[simp] theorem complete_csumCalc (s : State) : (complete s).csumCalc = s.csumCalc := rfl
@[simp] theorem complete_txf (s : State) : (complete s).txf = s.txf := rfl
@[simp] theorem complete_txfValid (s : State) : (complete s).txfValid = s.txfValid := rfl
@[simp] theorem complete_ackMatch (s : State) : (complete s).ackMatch = s.ackMatch := rfl
@[simp] theorem complete_port (s : State) : (complete s).port = s.port := rfl

/-! ### raise -/

@[simp] theorem raise_phase (e : ResultCode) (s : State) : (raise e s).phase = s.phase := rfl
@[simp] theorem raise_len (e : ResultCode) (s : State) : (raise e s).len = s.len := rfl
@[simp] theorem raise_cursor (e : ResultCode) (s : State) : (raise e s).cursor = s.cursor := rfl
@[simp] theorem raise_retry (e : ResultCode) (s : State) : (raise e s).retry = s.retry := rfl
@[simp] theorem raise_buf (e : ResultCode) (s : State) : (raise e s).buf = s.buf := rfl
@[simp] theorem raise_result (e : ResultCode) (s : State) : (raise e s).result = e := rfl
@[simp] theorem raise_tlmValid (e : ResultCode) (s : State) : (raise e s).tlmValid = s.tlmValid := rfl
@[simp] theorem raise_tlm (e : ResultCode) (s : State) : (raise e s).tlm = s.tlm := rfl
@[simp] theorem raise_csumCalc (e : ResultCode) (s : State) : (raise e s).csumCalc = s.csumCalc := rfl
@[simp] theorem raise_txf (e : ResultCode) (s : State) : (raise e s).txf = s.txf := rfl
@[simp] theorem raise_txfValid (e : ResultCode) (s : State) : (raise e s).txfValid = s.txfValid := rfl
@[simp] theorem raise_ackMatch (e : ResultCode) (s : State) : (raise e s).ackMatch = s.ackMatch := rfl
@[simp] theorem raise_port (e : ResultCode) (s : State) : (raise e s).port = s.port := rfl

/-! ### setTelemetry -/

@[simp] theorem setTelemetry_phase (r : Telemetry) (s : State) : (setTelemetry r s).phase = s.phase := rfl
@[simp] theorem setTelemetry_len (r : Telemetry) (s : State) : (setTelemetry r s).len = s.len := rfl
@[simp] theorem setTelemetry_cursor (r : Telemetry) (s : State) : (setTelemetry r s).cursor = s.cursor := rfl
@[simp] theorem setTelemetry_retry (r : Telemetry) (s : State) : (setTelemetry r s).retry = s.retry := rfl
@[simp] theorem setTelemetry_buf (r : Telemetry) (s : State) : (setTelemetry r s).buf = s.buf := rfl
@[simp] theorem setTelemetry_result (r : Telemetry) (s : State) : (setTelemetry r s).result = s.result := rfl
@[simp] theorem setTelemetry_tlmValid (r : Telemetry) (s : State) : (setTelemetry r s).tlmValid = true := rfl
@[simp] theorem setTelemetry_tlm (r : Telemetry) (s : State) : (setTelemetry r s).tlm = r := rfl
@[simp] theorem setTelemetry_csumCalc (r : Telemetry) (s : State) : (setTelemetry r s).csumCalc = s.csumCalc := rfl
@[simp] theorem setTelemetry_txf (r : Telemetry) (s : State) : (setTelemetry r s).txf = s.txf := rfl
@[simp] theorem setTelemetry_txfValid (r : Telemetry) (s : State) : (setTelemetry r s).txfValid = s.txfValid := rfl
@[simp] theorem setTelemetry_ackMatch (r : Telemetry) (s : State) : (setTelemetry r s).ackMatch = s.ackMatch := rfl
@[simp] theorem setTelemetry_port (r : Telemetry) (s : State) : (setTelemetry r s).port = s.port := rfl

/-! ### clearTelemetry -/

@[simp] theorem clearTelemetry_phase (s : State) : (clearTelemetry s).phase = s.phase := rfl
@[simp] theorem clearTelemetry_len (s : State) : (clearTelemetry s).len = s.len := rfl
@[simp] theorem clearTelemetry_cursor (s : State) : (clearTelemetry s).cursor = s.cursor := rfl
@[simp] theorem clearTelemetry_retry (s : State) : (clearTelemetry s).retry = s.retry := rfl
@[simp] theorem clearTelemetry_buf (s : State) : (clearTelemetry s).buf = s.buf := rfl
@[simp] theorem clearTelemetry_result (s : State) : (clearTelemetry s).result = s.result := rfl
@[simp] theorem clearTelemetry_tlmValid (s : State) : (clearTelemetry s).tlmValid = false := rfl
@[simp] theorem clearTelemetry_tlm (s : State) : (clearTelemetry s).tlm = Telemetry.zero := rfl
@[simp] theorem clearTelemetry_csumCalc (s : State) : (clearTelemetry s).csumCalc = s.csumCalc := rfl
@[simp] theorem clearTelemetry_txf (s : State) : (clearTelemetry s).txf = s.txf := rfl
@[simp] theorem clearTelemetry_txfValid (s : State) : (clearTelemetry s).txfValid = s.txfValid := rfl
@[simp] theorem clearTelemetry_ackMatch (s : State) : (clearTelemetry s).ackMatch = s.ackMatch := rfl
@[simp] theorem clearTelemetry_port (s : State) : (clearTelemetry s).port = s.port := rfl

/-! ### setTxFrame -/

@[simp] theorem setTxFrame_phase (f : Vector Byte 7) (s : State) : (setTxFrame f s).phase = s.phase := rfl
@[simp] theorem setTxFrame_len (f : Vector Byte 7) (s : State) : (setTxFrame f s).len = s.len := rfl
@[simp] theorem setTxFrame_cursor (f : Vector Byte 7) (s : State) : (setTxFrame f s).cursor = s.cursor := rfl
@[simp] theorem setTxFrame_retry (f : Vector Byte 7) (s : State) : (setTxFrame f s).retry = s.retry := rfl
@[simp] theorem setTxFrame_buf (f : Vector Byte 7) (s : State) : (setTxFrame f s).buf = s.buf := rfl
@[simp] theorem setTxFrame_result (f : Vector Byte 7) (s : State) : (setTxFrame f s).result = s.result := rfl
@[simp] theorem setTxFrame_tlmValid (f : Vector Byte 7) (s : State) : (setTxFrame f s).tlmValid = s.tlmValid := rfl
@[simp] theorem setTxFrame_tlm (f : Vector Byte 7) (s : State) : (setTxFrame f s).tlm = s.tlm := rfl
@[simp] theorem setTxFrame_csumCalc (f : Vector Byte 7) (s : State) : (setTxFrame f s).csumCalc = s.csumCalc := rfl
@[simp] theorem setTxFrame_txf (f : Vector Byte 7) (s : State) : (setTxFrame f s).txf = f := rfl
@[simp] theorem setTxFrame_txfValid (f : Vector Byte 7) (s : State) : (setTxFrame f s).txfValid = true := rfl
@[simp] theorem setTxFrame_ackMatch (f : Vector Byte 7) (s : State) : (setTxFrame f s).ackMatch = s.ackMatch := rfl
@[simp] theorem setTxFrame_port (f : Vector Byte 7) (s : State) : (setTxFrame f s).port = s.port := rfl

/-! ### presentNext -/

@[simp] theorem presentNext_phase (w : Word) (s : State) : (presentNext w s).phase = s.phase := rfl
@[simp] theorem presentNext_len (w : Word) (s : State) : (presentNext w s).len = s.len := rfl
@[simp] theorem presentNext_cursor (w : Word) (s : State) : (presentNext w s).cursor = s.cursor := rfl
@[simp] theorem presentNext_retry (w : Word) (s : State) : (presentNext w s).retry = s.retry := rfl
@[simp] theorem presentNext_buf (w : Word) (s : State) : (presentNext w s).buf = s.buf := rfl
@[simp] theorem presentNext_result (w : Word) (s : State) : (presentNext w s).result = s.result := rfl
@[simp] theorem presentNext_tlmValid (w : Word) (s : State) : (presentNext w s).tlmValid = s.tlmValid := rfl
@[simp] theorem presentNext_tlm (w : Word) (s : State) : (presentNext w s).tlm = s.tlm := rfl
@[simp] theorem presentNext_csumCalc (w : Word) (s : State) : (presentNext w s).csumCalc = s.csumCalc := rfl
@[simp] theorem presentNext_txf (w : Word) (s : State) : (presentNext w s).txf = s.txf := rfl
@[simp] theorem presentNext_txfValid (w : Word) (s : State) : (presentNext w s).txfValid = s.txfValid := rfl
@[simp] theorem presentNext_ackMatch (w : Word) (s : State) : (presentNext w s).ackMatch = s.ackMatch := rfl
@[simp] theorem presentNext_port (w : Word) (s : State) : (presentNext w s).port = .command w :: s.port := rfl

/-! ### takeReset -/

@[simp] theorem takeReset_phase (s : State) : (takeReset s).phase = .idle := rfl
@[simp] theorem takeReset_len (s : State) : (takeReset s).len = 0 := rfl
@[simp] theorem takeReset_cursor (s : State) : (takeReset s).cursor = 0 := rfl
@[simp] theorem takeReset_retry (s : State) : (takeReset s).retry = 0 := rfl
@[simp] theorem takeReset_buf (s : State) : (takeReset s).buf = Vector.replicate 32 0 := rfl
@[simp] theorem takeReset_result (s : State) : (takeReset s).result = .ok := rfl
@[simp] theorem takeReset_tlmValid (s : State) : (takeReset s).tlmValid = false := rfl
@[simp] theorem takeReset_tlm (s : State) : (takeReset s).tlm = Telemetry.zero := rfl
@[simp] theorem takeReset_csumCalc (s : State) : (takeReset s).csumCalc = 0 := rfl
@[simp] theorem takeReset_txf (s : State) : (takeReset s).txf = Vector.replicate 7 0 := rfl
@[simp] theorem takeReset_txfValid (s : State) : (takeReset s).txfValid = false := rfl
@[simp] theorem takeReset_ackMatch (s : State) : (takeReset s).ackMatch = false := rfl
@[simp] theorem takeReset_port (s : State) : (takeReset s).port = s.port := rfl

/-! ### State.reset -/

@[simp] theorem reset_phase : State.reset.phase = .idle := rfl
@[simp] theorem reset_len : State.reset.len = 0 := rfl
@[simp] theorem reset_cursor : State.reset.cursor = 0 := rfl
@[simp] theorem reset_retry : State.reset.retry = 0 := rfl
@[simp] theorem reset_buf : State.reset.buf = Vector.replicate 32 0 := rfl
@[simp] theorem reset_result : State.reset.result = .ok := rfl
@[simp] theorem reset_tlmValid : State.reset.tlmValid = false := rfl
@[simp] theorem reset_tlm : State.reset.tlm = Telemetry.zero := rfl
@[simp] theorem reset_csumCalc : State.reset.csumCalc = 0 := rfl
@[simp] theorem reset_txf : State.reset.txf = Vector.replicate 7 0 := rfl
@[simp] theorem reset_txfValid : State.reset.txfValid = false := rfl
@[simp] theorem reset_ackMatch : State.reset.ackMatch = false := rfl
@[simp] theorem reset_port : State.reset.port = [] := rfl

/-- Two states with the same fields are the same state. -/
theorem state_eq_of_fields {s t : State} (h₁ : s.phase = t.phase) (h₂ : s.len = t.len) (h₃ : s.cursor = t.cursor)
    (h₄ : s.retry = t.retry) (h₅ : s.buf = t.buf) (h₆ : s.result = t.result) (h₇ : s.tlmValid = t.tlmValid)
    (h₈ : s.tlm = t.tlm) (h₉ : s.csumCalc = t.csumCalc) (h₁₀ : s.txf = t.txf) (h₁₁ : s.txfValid = t.txfValid)
    (h₁₂ : s.ackMatch = t.ackMatch) (h₁₃ : s.port = t.port) : s = t := by
  cases s; cases t; simp_all

end Sys2Proof.Machine
end

