-- ==== Sys2Proof/Laws/Ops.lean ====
section
/-! SUPPORT. What the named operations of Machine/Ops.lean do, said once: reading after writing a byte array, bytes and
halfwords, byte sums and their bound, and what a step takes from the port. -/

namespace Sys2Proof.Machine

variable {n : Nat}

/-! ### Byte arrays -/

/-- Reading after a byte write: the written value at the written index, the old one elsewhere. -/
theorem memWrite8_getElem (F : Vector Byte n) (i j : Nat) (v : Byte) (h : j < n) :
    (memWrite8 F i v)[j] = if i = j then v else F[j] := by
  simp [memWrite8, Vector.getElem_setIfInBounds]

/-- Inside the array the total write is the plain one. -/
theorem memWrite8_eq_set (F : Vector Byte n) (i : Nat) (v : Byte) (h : i < n) : memWrite8 F i v = F.set i v := by
  ext j hj
  simp [memWrite8_getElem, Vector.getElem_set]

/-- Reading after a halfword write. -/
theorem memWrite16_getElem (F : Vector Byte n) (i j : Nat) (v : Half) (h : j < n) :
    (memWrite16 F i v)[j] = if i + 1 = j then loByte v else if i = j then hiByte v else F[j] := by
  simp [memWrite16, memWrite8_getElem]

theorem hiByte_toNat (v : Half) : (hiByte v).toNat = v.toNat / 256 := by
  have := v.isLt
  simp only [hiByte, BitVec.extractLsb'_toNat, Nat.shiftRight_eq_div_pow]
  omega

theorem loByte_toNat (v : Half) : (loByte v).toNat = v.toNat % 256 := by
  simp [loByte, BitVec.extractLsb'_toNat]

/-- A halfword's value from its two bytes, high byte first. -/
theorem append_toNat (a b : Byte) : (a ++ b : Half).toNat = a.toNat * 256 + b.toNat := by
  simp only [BitVec.toNat_append]
  rw [← Nat.shiftLeft_add_eq_or_of_lt b.isLt, Nat.shiftLeft_eq]

@[simp] theorem hiByte_append (a b : Byte) : hiByte (a ++ b) = a := by
  apply BitVec.eq_of_toNat_eq
  rw [hiByte_toNat, append_toNat]
  have := b.isLt
  omega

@[simp] theorem loByte_append (a b : Byte) : loByte (a ++ b) = b := by
  apply BitVec.eq_of_toNat_eq
  rw [loByte_toNat, append_toNat]
  have := b.isLt
  omega

@[simp] theorem hiByte_append_loByte (v : Half) : hiByte v ++ loByte v = v := by
  apply BitVec.eq_of_toNat_eq
  rw [append_toNat, hiByte_toNat, loByte_toNat]
  omega

/-- A halfword written is the halfword read (R13). -/
theorem memRead16_memWrite16 (F : Vector Byte n) (i : Nat) (v : Half) (h : i + 1 < n) :
    memRead16 (memWrite16 F i v) i h = v := by
  simp [memRead16, memWrite16_getElem]

/-! ### Byte sums -/

/-- A list of bytes sums to at most 255 for each of them. -/
theorem sum_toNat_le (l : List Byte) : (l.map BitVec.toNat).sum ≤ 255 * l.length := by
  induction l with
  | nil => simp
  | cons b l ih =>
    have := b.isLt
    simp only [List.map_cons, List.sum_cons, List.length_cons]
    omega

/-- `Sum(S, lo, hi)` is at most 255 for each byte it takes. -/
theorem byteSum_le (F : Vector Byte n) (lo hi : Nat) : byteSum F lo hi ≤ 255 * (hi - lo) := by
  refine (sum_toNat_le _).trans (Nat.mul_le_mul_left _ ?_)
  simp only [List.length_drop, List.length_take]
  omega

/-- `Sum(S, 0, hi)` as a sum over the indices. -/
theorem byteSum_eq_sum (F : Vector Byte n) (hi : Nat) (h : hi ≤ n) :
    byteSum F 0 hi = ∑ i : Fin hi, (F[i.val]'(by omega)).toNat := by
  have e : F.toList.take hi = List.ofFn fun i : Fin hi => F[i.val]'(by omega) := by
    apply List.ext_getElem
    · simp [h]
    · intro i h1 h2
      rw [List.getElem_ofFn]
      simp
  rw [byteSum, List.drop_zero, e, List.map_ofFn, List.sum_ofFn]
  rfl

/-- Up to 256 bytes the truncation to 16 bits changes nothing. -/
theorem byteSum16_toNat (F : Vector Byte n) (lo hi : Nat) (h : hi - lo ≤ 256) :
    (byteSum16 F lo hi).toNat = byteSum F lo hi := by
  have := byteSum_le F lo hi
  simp only [byteSum16, BitVec.toNat_ofNat]
  omega

/-! ### The port -/

theorem nextInput_nil {s : State} (h : s.port = []) : nextInput s = none := by
  simp [nextInput, h]

theorem nextInput_cons {s : State} {i : PortInput} {rest : List PortInput} (h : s.port = i :: rest) :
    nextInput s = some (i, { s with port := rest }) := by
  simp [nextInput, h]

end Sys2Proof.Machine
end

