-- ==== Sys2Proof/Laws/Reader.lean ====
section
/-! SUPPORT. What one read outcome can do to the state, said once (40_reader.md R87 to R93). Later proofs about the
reader split on these cases and unfold no definition. -/

namespace Sys2Proof.Machine

/-- R91: the budget is spent, or the read fails. -/
theorem consumeRetry_cases (s : State) :
    (s.retry = 0#16 ∧ consumeRetry s = { s with phase := .failed, result := .readFailed }) ∨
    (s.retry ≠ 0#16 ∧ consumeRetry s = { s with retry := s.retry - 1#16, result := .ok }) := by
  by_cases h : s.retry = 0#16
  · exact .inl ⟨h, by rw [consumeRetry, if_pos h]; rfl⟩
  · exact .inr ⟨h, by rw [consumeRetry, if_neg h]; rfl⟩

/-- R93: outside an active phase a read outcome changes nothing. -/
theorem readerStep_inactive {s : State} (h1 h2 : Byte) (o : ReadOutcome) (h : s.phase.isActive = false) :
    readerStep h1 h2 o s = s := by
  cases hp : s.phase <;> simp [Phase.isActive, hp] at h <;> simp [readerStep, hp]

/-- R87: in an active phase a stall consumes retry. -/
theorem readerStep_stall {s : State} (h1 h2 : Byte) {o : ReadOutcome} (h : s.phase.isActive = true)
    (ho : o = .notReady ∨ o = .fault) : readerStep h1 h2 o s = consumeRetry s := by
  rcases ho with rfl | rfl <;> cases hp : s.phase <;> simp [Phase.isActive, hp] at h <;> simp [readerStep, hp]

/-- R89. -/
theorem readerStep_header1 {s : State} (h1 h2 b : Byte) (h : s.phase = .awaitingHeader1) :
    readerStep h1 h2 (.byte b) s =
      if b = h1 then { s with phase := .awaitingHeader2, result := .ok } else consumeRetry s := by
  simp [readerStep, h, feedHeader1, complete]

/-- R90. -/
theorem readerStep_header2 {s : State} (h1 h2 b : Byte) (h : s.phase = .awaitingHeader2) :
    readerStep h1 h2 (.byte b) s =
      if b = h2 then
        { s with buf := (s.buf.set 0 h1).set 1 h2, cursor := 2#6, phase := .collecting, result := .ok }
      else { s with phase := .awaitingHeader1, result := .ok } := by
  simp [readerStep, h, feedHeader2, complete, memWrite8_eq_set]

/-- R92. -/
theorem readerStep_collecting {s : State} (h1 h2 b : Byte) (h : s.phase = .collecting) :
    readerStep h1 h2 (.byte b) s =
      { s with
        buf := memWrite8 s.buf s.cursor.toNat b
        cursor := s.cursor + 1#6
        phase := if s.cursor + 1#6 = s.len then .finished else .collecting
        result := .ok } := by
  simp [readerStep, h, feedCollect, complete]

/-- Every outcome in every phase: one of the cases of the transition table (R85). -/
theorem readerStep_cases (h1 h2 : Byte) (o : ReadOutcome) (s : State) :
    (s.phase.isActive = false ∧ readerStep h1 h2 o s = s) ∨
    (s.phase.isActive = true ∧ (∀ b, o = .byte b → s.phase = .awaitingHeader1 ∧ b ≠ h1) ∧
      readerStep h1 h2 o s = consumeRetry s) ∨
    (s.phase = .awaitingHeader1 ∧ o = .byte h1 ∧
      readerStep h1 h2 o s = { s with phase := .awaitingHeader2, result := .ok }) ∨
    (s.phase = .awaitingHeader2 ∧ o = .byte h2 ∧
      readerStep h1 h2 o s =
        { s with buf := (s.buf.set 0 h1).set 1 h2, cursor := 2#6, phase := .collecting, result := .ok }) ∨
    (s.phase = .awaitingHeader2 ∧ (∃ b, o = .byte b ∧ b ≠ h2) ∧
      readerStep h1 h2 o s = { s with phase := .awaitingHeader1, result := .ok }) ∨
    (s.phase = .collecting ∧ ∃ b, o = .byte b ∧
      readerStep h1 h2 o s =
        { s with
          buf := memWrite8 s.buf s.cursor.toNat b
          cursor := s.cursor + 1#6
          phase := if s.cursor + 1#6 = s.len then .finished else .collecting
          result := .ok }) := by
  cases ha : s.phase.isActive with
  | false => exact .inl ⟨rfl, readerStep_inactive _ _ _ ha⟩
  | true =>
    right
    cases o with
    | notReady => exact .inl ⟨rfl, by simp, readerStep_stall _ _ ha (.inl rfl)⟩
    | fault => exact .inl ⟨rfl, by simp, readerStep_stall _ _ ha (.inr rfl)⟩
    | byte b =>
      cases hp : s.phase with
      | idle => simp [hp, Phase.isActive] at ha
      | finished => simp [hp, Phase.isActive] at ha
      | failed => simp [hp, Phase.isActive] at ha
      | awaitingHeader1 =>
        by_cases hb : b = h1
        · exact .inr (.inl ⟨rfl, by rw [hb], by rw [readerStep_header1 _ _ _ hp, if_pos hb]⟩)
        · refine .inl ⟨rfl, fun c hc => ?_, by rw [readerStep_header1 _ _ _ hp, if_neg hb]⟩
          cases hc
          exact ⟨rfl, hb⟩
      | awaitingHeader2 =>
        by_cases hb : b = h2
        · exact .inr (.inr (.inl ⟨rfl, by rw [hb], by rw [readerStep_header2 _ _ _ hp, if_pos hb]⟩))
        · exact .inr (.inr (.inr (.inl ⟨rfl, ⟨b, rfl, hb⟩, by rw [readerStep_header2 _ _ _ hp, if_neg hb]⟩)))
      | collecting => exact .inr (.inr (.inr (.inr ⟨rfl, b, rfl, readerStep_collecting _ _ _ hp⟩)))

/-- A read outcome never touches the port or the transmit frame. -/
theorem readerStep_keeps (h1 h2 : Byte) (o : ReadOutcome) (s : State) :
    (readerStep h1 h2 o s).port = s.port ∧ (readerStep h1 h2 o s).txf = s.txf ∧
      (readerStep h1 h2 o s).txfValid = s.txfValid ∧ (readerStep h1 h2 o s).tlm = s.tlm ∧
      (readerStep h1 h2 o s).tlmValid = s.tlmValid ∧ (readerStep h1 h2 o s).csumCalc = s.csumCalc ∧
      (readerStep h1 h2 o s).ackMatch = s.ackMatch ∧ (readerStep h1 h2 o s).len = s.len := by
  rcases readerStep_cases h1 h2 o s with ⟨_, h⟩ | ⟨_, _, h⟩ | ⟨_, _, h⟩ | ⟨_, _, h⟩ | ⟨_, _, h⟩ | ⟨_, _, _, h⟩
  case inr.inl => rcases consumeRetry_cases s with ⟨_, h'⟩ | ⟨_, h'⟩ <;> simp [h, h']
  all_goals simp [h]

/-- The reader reads PHASE, LEN, CURSOR, RETRY and BUF only: states equal there step alike there, and in an active phase
to the same RESULT. -/
theorem readerStep_congr {s t : State} (h1 h2 : Byte) (o : ReadOutcome) (hp : s.phase = t.phase) (hl : s.len = t.len)
    (hc : s.cursor = t.cursor) (hr : s.retry = t.retry) (hb : s.buf = t.buf) :
    (readerStep h1 h2 o s).phase = (readerStep h1 h2 o t).phase ∧
      (readerStep h1 h2 o s).cursor = (readerStep h1 h2 o t).cursor ∧
      (readerStep h1 h2 o s).retry = (readerStep h1 h2 o t).retry ∧
      (readerStep h1 h2 o s).buf = (readerStep h1 h2 o t).buf ∧
      (s.phase.isActive = true → (readerStep h1 h2 o s).result = (readerStep h1 h2 o t).result) := by
  have stall : (consumeRetry s).phase = (consumeRetry t).phase ∧ (consumeRetry s).cursor = (consumeRetry t).cursor ∧
      (consumeRetry s).retry = (consumeRetry t).retry ∧ (consumeRetry s).buf = (consumeRetry t).buf ∧
      (consumeRetry s).result = (consumeRetry t).result := by
    rcases consumeRetry_cases s with ⟨a, e⟩ | ⟨a, e⟩ <;> rcases consumeRetry_cases t with ⟨b, f⟩ | ⟨b, f⟩ <;>
      rw [e, f] <;> simp_all
  cases ha : s.phase.isActive with
  | false =>
    rw [readerStep_inactive _ _ _ ha, readerStep_inactive _ _ _ (by rwa [← hp])]
    exact ⟨hp, hc, hr, hb, by simp⟩
  | true =>
    cases o with
    | notReady =>
      rw [readerStep_stall _ _ ha (.inl rfl), readerStep_stall _ _ (by rwa [← hp]) (.inl rfl)]
      exact ⟨stall.1, stall.2.1, stall.2.2.1, stall.2.2.2.1, fun _ => stall.2.2.2.2⟩
    | fault =>
      rw [readerStep_stall _ _ ha (.inr rfl), readerStep_stall _ _ (by rwa [← hp]) (.inr rfl)]
      exact ⟨stall.1, stall.2.1, stall.2.2.1, stall.2.2.2.1, fun _ => stall.2.2.2.2⟩
    | byte b =>
      cases hs : s.phase with
      | idle => simp [hs, Phase.isActive] at ha
      | finished => simp [hs, Phase.isActive] at ha
      | failed => simp [hs, Phase.isActive] at ha
      | awaitingHeader1 =>
        rw [readerStep_header1 _ _ _ hs, readerStep_header1 _ _ _ (hp ▸ hs)]
        split
        · exact ⟨rfl, hc, hr, hb, fun _ => rfl⟩
        · exact ⟨stall.1, stall.2.1, stall.2.2.1, stall.2.2.2.1, fun _ => stall.2.2.2.2⟩
      | awaitingHeader2 =>
        rw [readerStep_header2 _ _ _ hs, readerStep_header2 _ _ _ (hp ▸ hs)]
        split
        · exact ⟨rfl, rfl, hr, by rw [hb], fun _ => rfl⟩
        · exact ⟨rfl, hc, hr, hb, fun _ => rfl⟩
      | collecting =>
        rw [readerStep_collecting _ _ _ hs, readerStep_collecting _ _ _ (hp ▸ hs), hc, hl, hb]
        exact ⟨rfl, rfl, hr, rfl, fun _ => rfl⟩

/-- What the host presents passes through a read outcome. -/
theorem readerStep_port (h1 h2 : Byte) (o : ReadOutcome) (s : State) (p : List PortInput) :
    readerStep h1 h2 o { s with port := p } = { readerStep h1 h2 o s with port := p } := by
  have hr : (readerStep h1 h2 o { s with port := p }).result = (readerStep h1 h2 o s).result := by
    cases ha : s.phase.isActive with
    | true => exact (readerStep_congr (s := { s with port := p }) (t := s) h1 h2 o rfl rfl rfl rfl rfl).2.2.2.2 ha
    | false => rw [readerStep_inactive h1 h2 o ha, readerStep_inactive (s := { s with port := p }) h1 h2 o ha]
  obtain ⟨c1, c2, c3, c4, -⟩ :=
    readerStep_congr (s := { s with port := p }) (t := s) h1 h2 o rfl rfl rfl rfl rfl
  obtain ⟨a1, a2, a3, a4, a5, a6, a7, a8⟩ := readerStep_keeps h1 h2 o s
  obtain ⟨b1, b2, b3, b4, b5, b6, b7, b8⟩ := readerStep_keeps h1 h2 o { s with port := p }
  ext1
  all_goals first | assumption | simp_all

end Sys2Proof.Machine
end

