-- ==== Sys2Proof/Laws/Exec.lean ====
section
/-! SUPPORT. What executing a command and taking a step can do, said once. -/

namespace Sys2Proof.Machine

/-- The state a command leaves, for the commands that branch on nothing but the reader. -/
@[simp] theorem exec_rdstart (l : Byte) (b : Half) (s : State) : exec (.rdstart l b) s = .next (startRead l b s) := rfl
@[simp] theorem exec_feedb (b : Byte) (s : State) : exec (.feedb b) s = .next (feedOutcome (.byte b) s) := rfl
@[simp] theorem exec_feedn (s : State) : exec .feedn s = .next (feedOutcome .notReady s) := rfl
@[simp] theorem exec_feedf (s : State) : exec .feedf s = .next (feedOutcome .fault s) := rfl
@[simp] theorem exec_encode (o : Byte) (d : Half) (s : State) :
    exec (.encode o d) s = .next (complete (setTxFrame (cmdFrame o d) s)) := rfl

/-- PARSE's two ways (R108). -/
theorem exec_parse_cases (s : State) :
    ((s.phase = .finished ∧ s.len = 32#6) ∧ exec .parse s = .next (parseFrame s)) ∨
    ((s.phase ≠ .finished ∨ s.len ≠ 32#6) ∧ exec .parse s = .next { s with result := .stateError }) := by
  by_cases h : s.phase ≠ .finished ∨ s.len ≠ 32#6
  · exact .inr ⟨h, by simp only [exec, execParse, if_pos h, raise]⟩
  · refine .inl ⟨?_, by simp only [exec, execParse, if_neg h]⟩
    simpa [not_or] using h

/-- ACKCMP's two ways (R113). -/
theorem exec_ackcmp_cases (sel : AckSel) (s : State) :
    ((s.phase = .finished ∧ s.len = 8#6) ∧ exec (.ackcmp sel) s = .next (compareAck sel s)) ∨
    ((s.phase ≠ .finished ∨ s.len ≠ 8#6) ∧ exec (.ackcmp sel) s = .next { s with result := .stateError }) := by
  by_cases h : s.phase ≠ .finished ∨ s.len ≠ 8#6
  · exact .inr ⟨h, by simp only [exec, execAckcmp, if_pos h, raise]⟩
  · refine .inl ⟨?_, by simp only [exec, execAckcmp, if_neg h]⟩
    simpa [not_or] using h

/-- PARSE with its precondition, by the checksum (R108, R109). -/
theorem parseFrame_cases (s : State) :
    (memRead16 s.buf 30 = telemetrySum s.buf ∧ parseTelemetry s.buf = .ok (telemetryFields s.buf) ∧
      parseFrame s =
        { s with
          tlm := telemetryFields s.buf, tlmValid := true, csumCalc := telemetrySum s.buf, result := .ok }) ∨
    (memRead16 s.buf 30 ≠ telemetrySum s.buf ∧ parseTelemetry s.buf = .error .checksumError ∧
      parseFrame s =
        { s with
          tlm := Telemetry.zero, tlmValid := false, csumCalc := telemetrySum s.buf, result := .checksumError }) := by
  by_cases h : memRead16 s.buf 30 = telemetrySum s.buf
  · have hp : parseTelemetry s.buf = .ok (telemetryFields s.buf) := by simp only [parseTelemetry, if_pos h]
    exact .inl ⟨h, hp, by simp only [parseFrame, hp]; rfl⟩
  · have hp : parseTelemetry s.buf = .error .checksumError := by simp only [parseTelemetry, if_neg h]
    exact .inr ⟨h, hp, by simp only [parseFrame, hp]; rfl⟩

/-- ACKCMP with its precondition, by the comparison (R113). -/
theorem compareAck_cases (sel : AckSel) (s : State) :
    ((∀ i : Fin 8, s.buf[i.val] = (ackLiteral sel)[i.val]) ∧
      compareAck sel s = { s with ackMatch := true, result := .ok }) ∨
    ((¬ ∀ i : Fin 8, s.buf[i.val] = (ackLiteral sel)[i.val]) ∧
      compareAck sel s = { s with ackMatch := false, result := .incorrectResponse }) := by
  by_cases h : ∀ i : Fin 8, s.buf[i.val] = (ackLiteral sel)[i.val]
  · exact .inl ⟨h, by simp only [compareAck, bufMatches, decide_eq_true h, if_true]; rfl⟩
  · exact .inr ⟨h, by simp only [compareAck, bufMatches, decide_eq_false h, Bool.false_eq_true, if_false]; rfl⟩

/-- Every command answers a next state (R121), and none touches what the host presents. -/
theorem exec_next (i : Instr) (s : State) : ∃ t, exec i s = .next t ∧ t.port = s.port := by
  cases i with
  | rdstart l b => exact ⟨_, rfl, rfl⟩
  | feedb b => exact ⟨_, rfl, (readerStep_keeps _ _ _ _).1⟩
  | feedn => exact ⟨_, rfl, (readerStep_keeps _ _ _ _).1⟩
  | feedf => exact ⟨_, rfl, (readerStep_keeps _ _ _ _).1⟩
  | encode o d => exact ⟨_, rfl, rfl⟩
  | parse =>
    rcases exec_parse_cases s with ⟨_, h⟩ | ⟨_, h⟩
    · refine ⟨_, h, ?_⟩
      rcases parseFrame_cases s with ⟨_, _, hp⟩ | ⟨_, _, hp⟩ <;> rw [hp]
    · exact ⟨_, h, rfl⟩
  | ackcmp sel =>
    rcases exec_ackcmp_cases sel s with ⟨_, h⟩ | ⟨_, h⟩
    · refine ⟨_, h, ?_⟩
      rcases compareAck_cases sel s with ⟨_, hp⟩ | ⟨_, hp⟩ <;> rw [hp]
    · exact ⟨_, h, rfl⟩

/-- No command reads what the host presents: it passes through. -/
theorem exec_port (i : Instr) (s : State) (p : List PortInput) :
    ∃ t, exec i s = .next t ∧ exec i { s with port := p } = .next { t with port := p } := by
  cases i with
  | rdstart l b => exact ⟨_, rfl, rfl⟩
  | feedb b => exact ⟨_, rfl, congrArg _ (readerStep_port _ _ _ _ _)⟩
  | feedn => exact ⟨_, rfl, congrArg _ (readerStep_port _ _ _ _ _)⟩
  | feedf => exact ⟨_, rfl, congrArg _ (readerStep_port _ _ _ _ _)⟩
  | encode o d => exact ⟨_, rfl, rfl⟩
  | parse =>
    by_cases h : s.phase ≠ .finished ∨ s.len ≠ 32#6
    · exact ⟨_, by rw [exec, execParse, if_pos h], by rw [exec, execParse, if_pos h]; rfl⟩
    · refine ⟨_, by rw [exec, execParse, if_neg h], ?_⟩
      rw [exec, execParse, if_neg h]
      cases hp : parseTelemetry s.buf <;> simp only [parseFrame, hp] <;> rfl
  | ackcmp sel =>
    by_cases h : s.phase ≠ .finished ∨ s.len ≠ 8#6
    · exact ⟨_, by rw [exec, execAckcmp, if_pos h], by rw [exec, execAckcmp, if_pos h]; rfl⟩
    · refine ⟨_, by rw [exec, execAckcmp, if_neg h], ?_⟩
      rw [exec, execAckcmp, if_neg h]
      cases hp : bufMatches (ackLiteral sel) s.buf <;> simp only [compareAck, hp] <;> rfl

/-! ### The step -/

theorem step_idle_port {s : State} (h : s.port = []) : step s = .next s := by
  simp [step, cycle, nextInput_nil h]

theorem step_rst {s : State} {c : Option Word} {rest : List PortInput} (h : s.port = .rst c :: rest) :
    step s = .next (takeReset { s with port := rest }) := by
  simp [step, cycle, nextInput_cons h, runInput]

theorem step_command {s : State} {w : Word} {rest : List PortInput} (h : s.port = .command w :: rest) :
    step s = runWord w { s with port := rest } := by
  simp [step, cycle, nextInput_cons h, runInput]

theorem runWord_ok {w : Word} {i : Instr} (h : decode w = .ok i) (s : State) : runWord w s = exec i s := by
  simp [runWord, h]

theorem runWord_error {w : Word} {e : Reject} (h : decode w = .error e) (s : State) :
    runWord w s = .next { s with result := .illegalOp } := by
  simp [runWord, h, takeIllegalWord, raise]

/-- Everything a step can do, by what the host presents. -/
theorem step_cases (s : State) :
    (s.port = [] ∧ step s = .next s) ∨
    (∃ c rest, s.port = .rst c :: rest ∧ step s = .next (takeReset { s with port := rest })) ∨
    (∃ w i rest, s.port = .command w :: rest ∧ decode w = .ok i ∧ step s = exec i { s with port := rest }) ∨
    (∃ w e rest, s.port = .command w :: rest ∧ decode w = .error e ∧
      step s = .next { s with port := rest, result := .illegalOp }) := by
  rcases hp : s.port with _ | ⟨i, rest⟩
  · exact .inl ⟨rfl, step_idle_port hp⟩
  · right
    cases i with
    | rst c => exact .inl ⟨c, rest, rfl, step_rst hp⟩
    | command w =>
      right
      cases hd : decode w with
      | ok i => exact .inl ⟨w, i, rest, rfl, hd, by rw [step_command hp, runWord_ok hd]⟩
      | error e => exact .inr ⟨w, e, rest, rfl, hd, by rw [step_command hp, runWord_error hd]⟩

end Sys2Proof.Machine
end

