-- ==== Sys2Proof/Laws/PerInstr.lean ====
section
/-! SUPPORT. Facts about every command as syntax, one lemma per constructor. Family OpField: the encoder puts into bits
31:28 the OP code that 30_encoding.md R62 gives the command. -/

namespace Sys2Proof.Laws.OpField

/-- The OP code of a command (R62). -/
def opOf : Instr → BitVec 4
  | .rdstart _ _ => 0x1
  | .feedb _ => 0x2
  | .feedn => 0x2
  | .feedf => 0x2
  | .encode _ _ => 0x3
  | .parse => 0x4
  | .ackcmp _ => 0x5

/-- OP of the command's word is the command's OP code. -/
def Statement (i : Instr) : Prop := fieldOp (Sys2Proof.encode i) = opOf i

/-- The OP field of a word of the two-operand format. -/
theorem byteHalf_op (op : BitVec 4) (a : Byte) (d : Half) : fieldOp (op ++ (0#4) ++ a ++ d) = op := by
  apply BitVec.eq_of_toNat_eq
  rw [fieldOp, field_toNat, byteHalf_toNat]
  have := op.isLt
  have := a.isLt
  have := d.isLt
  omega

/-- The OP field of a FEED word. -/
theorem feed_op (k : BitVec 2) (b : Byte) : fieldOp (encodeFeed k b) = 0x2 := by
  apply BitVec.eq_of_toNat_eq
  rw [fieldOp, field_toNat, encodeFeed_toNat]
  have := k.isLt
  have := b.isLt
  simp
  omega

theorem rdstart (l : Byte) (b : Half) : Statement (.rdstart l b) := byteHalf_op _ _ _

theorem feedb (b : Byte) : Statement (.feedb b) := feed_op 0 b

theorem feedn : Statement .feedn := feed_op 1 0

theorem feedf : Statement .feedf := feed_op 2 0

theorem encode (o : Byte) (d : Half) : Statement (.encode o d) := byteHalf_op _ _ _

theorem parse : Statement .parse := by
  unfold Statement
  decide

theorem ackcmp (sel : AckSel) : Statement (.ackcmp sel) := by
  unfold Statement
  cases sel <;> decide

end Sys2Proof.Laws.OpField
end

