-- ==== Sys2Proof/Laws/Run.lean ====
section
/-! SUPPORT. Running the machine behind Host.Core, one step at a time. -/

namespace Sys2Proof.Machine

/-- Running no step. -/
theorem run_zero (s : State) :
    (Host.Core.run Sys2Proof.core 0 s : Host.Outcome State Fault Refusal) = .next s := rfl

/-- One more step, when it answers a next state. -/
theorem run_succ {s t : State} (h : step s = .next t) (k : Nat) :
    (Host.Core.run Sys2Proof.core (k + 1) s : Host.Outcome State Fault Refusal) =
      Host.Core.run Sys2Proof.core k t := by
  have h' : Sys2Proof.core.step s = .next t := h
  simp only [Host.Core.run, h']

/-! ### Feeding read outcomes -/

/-- The FEED command of an outcome is that outcome's transition (R88, R94 to R96). -/
theorem exec_feedInstr (o : ReadOutcome) (s : State) : exec (feedInstr o) s = .next (feedOutcome o s) := by
  cases o <;> rfl

theorem decode_encode_feedInstr (o : ReadOutcome) : decode (encode (feedInstr o)) = .ok (feedInstr o) := by
  cases o with
  | byte b => exact decode_encode_feedb b
  | notReady => decide
  | fault => decide

theorem runFeeds_nil (s : State) : runFeeds [] s = .next s := rfl

/-- Feeding an outcome and then the others. -/
theorem runFeeds_cons (o : ReadOutcome) (os : List ReadOutcome) (s : State) :
    runFeeds (o :: os) s = runFeeds os (feedOutcome o s) := by
  have h : step (present ((o :: os).map feedInstr) s) = .next (present (os.map feedInstr) (feedOutcome o s)) := by
    rw [step_command (w := encode (feedInstr o)) rfl, runWord_ok (decode_encode_feedInstr o), exec_feedInstr]
    have e : feedOutcome o { s with port := (os.map feedInstr).map (fun i => .command (encode i)) ++ s.port } =
        { feedOutcome o s with port := (os.map feedInstr).map (fun i => .command (encode i)) ++ s.port } :=
      readerStep_port _ _ _ _ _
    refine (congrArg _ e).trans ?_
    have hp : (feedOutcome o s).port = s.port := (readerStep_keeps _ _ _ _).1
    simp only [present, hp]
  exact run_succ h os.length

end Sys2Proof.Machine
end

