-- ==== Sys2Proof/Laws/View.lean ====
section
/-! SUPPORT. The output view, one lemma per register, and that the codes of PHASE, RESULT and the one-bit registers
determine what they code (10_state.md R22, R27, R34). -/

namespace Sys2Proof.Machine

@[simp] theorem view_phase (s : State) : s.view .phase = s.phase.code := rfl
@[simp] theorem view_len (s : State) : s.view .len = s.len := rfl
@[simp] theorem view_cursor (s : State) : s.view .cursor = s.cursor := rfl
@[simp] theorem view_retry (s : State) : s.view .retry = s.retry := rfl
@[simp] theorem view_buf (s : State) (i : Fin 32) : s.view (.buf i) = s.buf[i.val] := rfl
@[simp] theorem view_result (s : State) : s.view .result = s.result.code := rfl
@[simp] theorem view_tlmValid (s : State) : s.view .tlmValid = bitOf s.tlmValid := rfl
@[simp] theorem view_tHdr1 (s : State) : s.view .tHdr1 = s.tlm.hdr1 := rfl
@[simp] theorem view_tHdr2 (s : State) : s.view .tHdr2 = s.tlm.hdr2 := rfl
@[simp] theorem view_tFlen (s : State) : s.view .tFlen = s.tlm.flen := rfl
@[simp] theorem view_tM (s : State) (k : Fin 12) : s.view (.tM k) = s.tlm.m[k.val] := rfl
@[simp] theorem view_tRsvd (s : State) : s.view .tRsvd = s.tlm.rsvd := rfl
@[simp] theorem view_tCsum (s : State) : s.view .tCsum = s.tlm.csum := rfl
@[simp] theorem view_csumCalc (s : State) : s.view .csumCalc = s.csumCalc := rfl
@[simp] theorem view_txf (s : State) (i : Fin 7) : s.view (.txf i) = s.txf[i.val] := rfl
@[simp] theorem view_txfValid (s : State) : s.view .txfValid = bitOf s.txfValid := rfl
@[simp] theorem view_ackMatch (s : State) : s.view .ackMatch = bitOf s.ackMatch := rfl

/-- What the host presents is not shown. -/
@[simp] theorem view_port (s : State) (p : List PortInput) (r : Reg) : State.view { s with port := p } r = s.view r := by
  cases r <;> rfl

theorem phaseCode_inj {p q : Phase} (h : p.code = q.code) : p = q := by
  revert h
  cases p <;> cases q <;> decide

theorem resultCode_inj {p q : ResultCode} (h : p.code = q.code) : p = q := by
  revert h
  cases p <;> cases q <;> decide

theorem bitOf_inj {p q : Bool} (h : bitOf p = bitOf q) : p = q := by
  revert h
  cases p <;> cases q <;> decide

end Sys2Proof.Machine
end

