-- ==== Sys2Proof/Tests/Slice0.lean ====
section
/-! SUPPORT. The model's own tests: expected results are those spec/95_test_vectors.md gives (its id stands beside
each), and a named witness for the hypotheses of every statement that has some. -/

namespace Sys2Proof.Tests

open Sys2Proof.Machine

/-! ### Small states -/

/-- A byte array of the given bytes, 0 after them. -/
def bytes (n : Nat) (l : List Byte) : Vector Byte n := Vector.ofFn fun i => l.getD i.val 0

/-- Reset but for the reader's registers. -/
def reader (p : Phase) (len cursor : BitVec 6) (retry : Half) (buf : List Byte := []) (result : ResultCode := .ok) :
    State :=
  { State.reset with phase := p, len := len, cursor := cursor, retry := retry, buf := bytes 32 buf, result := result }

/-- The telemetry frame of 95_test_vectors.md, T32. -/
def t32 : List Byte :=
  [0x42, 0x4D, 0x00, 0x1C, 0x00, 0x05, 0x00, 0x07, 0x00, 0x07, 0x00, 0x05, 0x00, 0x07, 0x00, 0x07] ++
  [0x00, 0x00, 0x00, 0x00, 0x00, 0x00, 0x00, 0x00, 0x00, 0x00, 0x00, 0x00, 0x97, 0x00, 0x01, 0x68]

/-- A finished 32-byte read of these bytes. -/
def finished32 (l : List Byte) : State := reader .finished 32 32 0 l

/-- A finished 8-byte read of these bytes. -/
def finished8 (l : List Byte) : State := reader .finished 8 8 0 l

/-- The active-mode acknowledgement. -/
def activeAck : List Byte := [0x42, 0x4D, 0x00, 0x04, 0xE1, 0x01, 0x01, 0x75]

/-- Whether the outcome is a next state with the property. -/
def nextHas (o : Host.Outcome State Fault Refusal) (p : State → Bool) : Bool :=
  match o with
  | .next t => p t
  | .fault _ => false
  | .refused _ => false

/-! ### Well-formedness and decoding -/

theorem test_rdstart_too_short_is_ill_formed : wellFormed (.rdstart 2 5) = false := by decide

theorem test_rdstart_too_long_is_ill_formed : wellFormed (.rdstart 33 0) = false := by decide

/-- V-D-2, V-D-5: the words of the ill-formed commands are refused. -/
theorem test_ill_formed_words_are_refused :
    decode 0x10020005 = .error .lengthOutOfRange ∧ decode 0x10210000 = .error .lengthOutOfRange := by decide

/-- V-D-3, V-D-4, V-D-7. -/
theorem test_decode_rdstart :
    decode 0b0001_0000_00000011_0000000000000000 = .ok (.rdstart 3 0) ∧
    decode 0b0001_0000_00100000_0000000001100100 = .ok (.rdstart 32 100) ∧
    decode 0b0001_0000_00000100_1111111111111111 = .ok (.rdstart 4 65535) := by decide

/-- V-D-8, V-D-9. -/
theorem test_decode_feedb :
    decode 0b0010_000000000000000000_00_00000000 = .ok (.feedb 0) ∧
    decode 0b0010_000000000000000000_00_11111111 = .ok (.feedb 0xFF) := by decide

/-- V-D-10, V-D-11. -/
theorem test_decode_feedn :
    decode 0b0010_000000000000000000_01_00000000 = .ok .feedn ∧
    decode 0b0010_000000000000000000_01_00000001 = .error .feedByteNotZero := by decide

/-- V-D-12, V-D-13, V-D-14. -/
theorem test_decode_feedf :
    decode 0b0010_000000000000000000_10_00000000 = .ok .feedf ∧
    decode 0b0010_000000000000000000_11_00000000 = .error .feedKindIllegal ∧
    decode 0b0010_000000000000000001_00_00000000 = .error .reservedBitSet := by decide

/-- V-D-15, V-D-16, V-D-17. -/
theorem test_decode_encode :
    decode 0b0011_0000_11100001_0000000000000001 = .ok (.encode 0xE1 1) ∧
    decode 0b0011_0000_11111111_1111111111111111 = .ok (.encode 0xFF 0xFFFF) ∧
    decode 0b0011_0001_00000000_0000000000000000 = .error .reservedBitSet := by decide

/-- V-D-18, V-D-19. -/
theorem test_decode_parse :
    decode 0b0100_0000000000000000000000000000 = .ok .parse ∧
    decode 0b0100_0000000000000000000000000001 = .error .reservedBitSet := by decide

/-- V-D-20, V-D-21, V-D-22, V-D-23. -/
theorem test_decode_ackcmp :
    decode 0b0101_00000000000000000000000000_00 = .ok (.ackcmp .passive) ∧
    decode 0b0101_00000000000000000000000000_10 = .ok (.ackcmp .sleep) ∧
    decode 0b0101_00000000000000000000000000_11 = .error .selectorIllegal ∧
    decode 0b0101_00000000000000000000000001_00 = .error .reservedBitSet := by decide

/-- V-D-1, V-D-24, V-D-25, V-D-26. -/
theorem test_unassigned_ops_are_refused :
    decode 0x00000000 = .error .unassignedOp ∧ decode 0x60000000 = .error .unassignedOp ∧
    decode 0xF0000000 = .error .unassignedOp ∧ decode 0xFFFFFFFF = .error .unassignedOp := by decide

/-- The host's reading of the table's word of PARSE, and of its word of RDSTART, whose LEN8 bits the table leaves 0:
that word is illegal (R71). -/
theorem test_table_words :
    decodeTableWord 32 0x40000000 = some .parse ∧ decodeTableWord 32 0x10000000 = none ∧
    decodeTableWord 32 0x10030000 = some (.rdstart 3 0) := by decide

/-! ### RDSTART -/

/-- V-R-27: a fresh read keeps TXF. -/
theorem test_rdstart_clears_the_read_not_txf :
    nextHas (exec (.rdstart 8 100) { finished32 t32 with txf := cmdFrame 0xE4 1, txfValid := true }) (fun t =>
      decide (t.phase = .awaitingHeader1) && decide (t.len = 8) && decide (t.retry = 100) &&
      decide (t.cursor = 0) && decide (t.buf = bytes 32 []) && t.txfValid &&
      decide (t.txf = bytes 7 [0x42, 0x4D, 0xE4, 0x00, 0x01, 0x01, 0x74])) = true := by decide

/-! ### FEEDB -/

/-- V-R-2, V-R-3: HDR2 in AH1 is noise; noise at budget 0 fails the read. -/
theorem test_feedb_noise :
    exec (.feedb 0x4D) (reader .awaitingHeader1 32 0 5) = .next (reader .awaitingHeader1 32 0 4) ∧
    exec (.feedb 0x00) (reader .awaitingHeader1 32 0 0) = .next (reader .failed 32 0 0 [] .readFailed) := ⟨rfl, rfl⟩

/-- V-R-8, V-R-7, V-R-15: a doubled HDR1 goes back at no cost; the header is stored at the match; a header byte in
Collecting is data and can end the frame. -/
theorem test_feedb_header_and_data :
    exec (.feedb 0x42) (reader .awaitingHeader2 32 0 5) = .next (reader .awaitingHeader1 32 0 5) ∧
    nextHas (exec (.feedb 0x4D) (reader .awaitingHeader2 32 0 5)) (fun t =>
      decide (t = reader .collecting 32 2 5 [0x42, 0x4D])) = true ∧
    nextHas (exec (.feedb 0x42) (reader .collecting 4 3 0 [0x42, 0x4D, 0x11])) (fun t =>
      decide (t = reader .finished 4 4 0 [0x42, 0x4D, 0x11, 0x42])) = true := ⟨rfl, by decide, by decide⟩

/-! ### FEEDN, FEEDF -/

/-- V-R-13, V-R-17. -/
theorem test_feedn :
    exec .feedn (reader .collecting 4 3 1 [0x42, 0x4D, 0x11]) = .next (reader .collecting 4 3 0 [0x42, 0x4D, 0x11]) ∧
    exec .feedn (reader .failed 4 3 0 [] .readFailed) = .next (reader .failed 4 3 0 [] .readFailed) := ⟨rfl, rfl⟩

/-- V-R-6, V-R-14: a fault costs one retry, and fails the read only when the budget is spent; the buffer is kept. -/
theorem test_feedf :
    exec .feedf (reader .awaitingHeader1 32 0 5) = .next (reader .awaitingHeader1 32 0 4) ∧
    exec .feedf (reader .collecting 4 3 0 [0x42, 0x4D, 0x11]) =
      .next (reader .failed 4 3 0 [0x42, 0x4D, 0x11] .readFailed) := ⟨rfl, rfl⟩

/-! ### ENCODE -/

/-- V-E-7, V-E-9, V-E-10. -/
theorem test_encode :
    nextHas (exec (.encode 0xFF 0xFFFF) .reset) (fun t =>
      decide (t.txf = bytes 7 [0x42, 0x4D, 0xFF, 0xFF, 0xFF, 0x03, 0x8C]) && t.txfValid) = true ∧
    nextHas (exec (.encode 0x12 0x3456) .reset) (fun t =>
      decide (t.txf = bytes 7 [0x42, 0x4D, 0x12, 0x34, 0x56, 0x01, 0x2B])) = true ∧
    nextHas (exec (.encode 0xE1 0x0100) .reset) (fun t =>
      decide (t.txf = bytes 7 [0x42, 0x4D, 0xE1, 0x01, 0x00, 0x01, 0x71])) = true := by decide

/-! ### PARSE -/

/-- V-P-1, V-L1-2: T32 decodes. -/
theorem test_parse_t32 :
    nextHas (exec .parse (finished32 t32)) (fun t =>
      t.tlmValid && decide (t.result = .ok) && decide (t.csumCalc = 0x0168) && decide (t.tlm.flen = 0x001C) &&
      decide (t.tlm.m = #v[5, 7, 7, 5, 7, 7, 0, 0, 0, 0, 0, 0]) && decide (t.tlm.rsvd = 0x9700) &&
      decide (t.tlm.csum = 0x0168)) = true := by decide

/-- V-P-3, V-P-11: a wrong checksum withholds the record; an 8-byte frame is a state error. -/
theorem test_parse_refusals :
    nextHas (exec .parse (finished32 (t32.set 31 0x69))) (fun t =>
      !t.tlmValid && decide (t.result = .checksumError) && decide (t.csumCalc = 0x0168) &&
      decide (t.tlm = Telemetry.zero)) = true ∧
    nextHas (exec .parse (finished8 activeAck)) (fun t => decide (t.result = .stateError)) = true := by decide

/-! ### ACKCMP -/

/-- V-A-2, V-A-4, V-A-6. -/
theorem test_ackcmp :
    nextHas (exec (.ackcmp .active) (finished8 activeAck)) (fun t => t.ackMatch && decide (t.result = .ok)) = true ∧
    nextHas (exec (.ackcmp .passive) (finished8 activeAck)) (fun t =>
      !t.ackMatch && decide (t.result = .incorrectResponse)) = true ∧
    nextHas (exec (.ackcmp .active) (finished8 [0x42, 0x4D, 0x00, 0x04, 0xE2, 0x00, 0x01, 0x75])) (fun t =>
      !t.ackMatch && decide (t.result = .incorrectResponse)) = true := by decide

/-- V-A-8, V-A-9: a wrong length is a state error; an illegal selector is ILLEGAL_OP even in Failed. -/
theorem test_ackcmp_refusals :
    nextHas (exec (.ackcmp .active) (finished32 t32)) (fun t => decide (t.result = .stateError)) = true ∧
    nextHas (runWord 0x50000003 (reader .failed 8 0 0)) (fun t => decide (t.result = .illegalOp)) = true := by decide

/-! ### The step, reset and the host's side -/

/-- V-Z-1: RST wins over the FEEDB beside it. -/
theorem test_rst_wins :
    step { reader .collecting 32 10 94 (t32.take 10) with
      txf := cmdFrame 0xE2 0, txfValid := true, port := [.rst (some 0x20000000)] } = .next State.reset := rfl

/-- V-R-18b: an illegal word in Collecting does not disturb the read. -/
theorem test_illegal_word_keeps_the_read :
    step { reader .collecting 4 3 1 [0x42, 0x4D, 0x11] with port := [.command 0x20000300] } =
      .next (reader .collecting 4 3 1 [0x42, 0x4D, 0x11] .illegalOp) := rfl

/-- The host's way to run one table word first after reset. -/
theorem test_with_fetch_word :
    nextHas (step (State.reset.withFetchWord 32 0x10030000)) (fun t =>
      decide (t = reader .awaitingHeader1 3 0 0)) = true := by decide

/-- R73, R74: lines of host assembly. -/
theorem test_assembler :
    assembleWords "RDSTART 4, 2 ; fresh".toList = some [0x10040002] ∧ assembleWords "RDSTART 2, 5".toList = none ∧
    assembleWords "FEEDS 0x42, 77".toList = some [0x20000042, 0x2000004D] ∧
    assembleWords "ACKCMP SLEEP".toList = some [0x50000002] ∧
    assembleWords "host: send TXF".toList = some [] := by decide

/-- R133, R113: READ_FAILED of an 8-byte read is the host's NoResponse, and so is the STATE_ERROR of an ACKCMP after it;
a state error of PARSE, or of ACKCMP in Idle, has no host name. -/
theorem test_host_error :
    hostError .feedn (reader .failed 8 0 0 [] .readFailed) = some .noResponse ∧
    hostError .feedn (reader .failed 32 0 0 [] .readFailed) = some .readFailed ∧
    hostError (.ackcmp .active) (reader .failed 8 0 0 [] .stateError) = some .noResponse ∧
    hostError .parse (reader .failed 32 0 0 [] .stateError) = none ∧
    hostError (.ackcmp .active) { State.reset with result := .stateError } = none := by decide

/-! ### Witnesses: concrete states and operands that meet the hypotheses of a statement -/

/-- DecodeOfEncodeIsTheCommand, at both ends of LEN8. -/
theorem witness_well_formed : wellFormed (.rdstart 3 0) = true ∧ wellFormed (.rdstart 32 65535) = true := by decide

/-- DecodedWordIsTheCommandsEncoding. -/
theorem witness_decodes : decode 0x1004FFFF = .ok (.rdstart 4 65535) := by decide

/-- MatchMaskTableIsTheDecoder: the rows with an extra condition, and one without. -/
theorem witness_table_rows :
    (⟨"RDSTART", 0x10000000, 0xFF000000, some .lengthOutOfRange⟩ : TableRow) ∈ matchTable ∧
    (⟨"ACKCMP", 0x50000000, 0xFFFFFFFC, some .selectorIllegal⟩ : TableRow) ∈ matchTable ∧
    (⟨"PARSE", 0x40000000, 0xFFFFFFFF, none⟩ : TableRow) ∈ matchTable := by decide

/-- IllegalWordsAreExactlyTheListedOnes: a word for each listed case, at the boundary of its range, and the nearest legal
word. -/
theorem witness_illegal_cases :
    decode 0x00000000 = .error .unassignedOp ∧ decode 0x60000000 = .error .unassignedOp ∧
    decode 0x11040002 = .error .reservedBitSet ∧ decode 0x31000000 = .error .reservedBitSet ∧
    decode 0x20000400 = .error .reservedBitSet ∧ decode 0x40000001 = .error .reservedBitSet ∧
    decode 0x50000004 = .error .reservedBitSet ∧ decode 0x10020000 = .error .lengthOutOfRange ∧
    decode 0x10210000 = .error .lengthOutOfRange ∧ decode 0x20000300 = .error .feedKindIllegal ∧
    decode 0x20000101 = .error .feedByteNotZero ∧ decode 0x20000201 = .error .feedByteNotZero ∧
    decode 0x50000003 = .error .selectorIllegal ∧ decode 0x10200000 = .ok (.rdstart 32 0) := by decide

/-- StepRunsTheDecodedCommand. -/
theorem witness_step_runs :
    ({ State.reset with port := [.command 0x40000000] } : State).port = .command 0x40000000 :: [] ∧
    decode 0x40000000 = .ok .parse := ⟨rfl, by decide⟩

/-- IllegalWordWritesOnlyResult. -/
theorem witness_illegal_word_presented :
    ({ State.reset with port := [.command 0xFFFFFFFF] } : State).port = .command 0xFFFFFFFF :: [] ∧
    decode 0xFFFFFFFF = .error .unassignedOp := ⟨rfl, by decide⟩

/-- ResetPrecedesTheCommand, with a command beside RST and without, and one input left. -/
theorem witness_rst_presented :
    ({ finished32 t32 with port := [.rst (some 0x40000000), .command 0x40000000] } : State).port =
      .rst (some 0x40000000) :: [.command 0x40000000] ∧
    ({ finished32 t32 with port := [.rst none] } : State).port = .rst none :: [] := ⟨rfl, rfl⟩

/-- WaitingBlockKeepsItsState. -/
theorem witness_nothing_presented : State.reset.port = [] := rfl

/-- PresentedCommandsRunInOrder. -/
theorem witness_presented_commands : ∀ i ∈ [Instr.rdstart 3 0, .feedb 0x42, .parse], wellFormed i = true := by decide

/-- A read one byte before its end, LEN at its maximum, meets R36. -/
theorem witness_reader_inv_collecting : ReaderInv (reader .collecting 32 31 7 (t32.take 31)) := by
  constructor <;> decide

/-- A finished read meets R36. -/
theorem witness_reader_inv_finished : ReaderInv (finished32 t32) := by
  constructor <;> decide

/-- StepKeepsReaderInvariant and BufferWritesStayBelowLength, at the completing byte of the longest read. -/
theorem witness_reader_step :
    ReaderInv { reader .collecting 32 31 7 (t32.take 31) with port := [.command 0x20000068] } ∧
    nextHas (step { reader .collecting 32 31 7 (t32.take 31) with port := [.command 0x20000068] }) (fun t =>
      decide (t = reader .finished 32 32 7 t32)) = true :=
  ⟨by constructor <;> decide, by decide⟩

/-- EveryRunKeepsReaderInvariantAndBudget: a legal word, an illegal word and RST. -/
theorem witness_reader_run :
    ReaderInv (reader .awaitingHeader1 4 0 2) ∧ (reader .awaitingHeader1 4 0 2).retry ≤ 2 ∧
    nextHas (Host.Core.run Sys2Proof.core 3
      { reader .awaitingHeader1 4 0 2 with port := [.command 0x20000100, .command 0, .rst none] }) (fun t =>
      decide (t = State.reset)) = true :=
  ⟨by constructor <;> decide, by decide, by decide⟩

/-- A state with a valid record and a valid transmit frame meets the output invariant. -/
theorem witness_output_inv :
    OutputInv { finished32 t32 with
      tlm := telemetryFields (bytes 32 t32), tlmValid := true, csumCalc := telemetrySum (bytes 32 t32),
      txf := cmdFrame 0xE2 0, txfValid := true } where
  tlm_invalid h := by cases h
  tlm_valid _ := ⟨rfl, rfl, by rfl, rfl⟩
  csum _ := ⟨rfl, rfl, rfl⟩
  ack h := by cases h
  txf_invalid h := by cases h
  txf_valid _ := ⟨0xE2, 0, rfl⟩

/-- A state with a match meets the output invariant. -/
theorem witness_output_inv_ack : OutputInv { finished8 activeAck with ackMatch := true } where
  tlm_invalid _ := rfl
  tlm_valid h := by cases h
  csum h := absurd rfl h
  ack _ := ⟨rfl, rfl, .active, by decide⟩
  txf_invalid _ := by decide
  txf_valid h := by cases h

/-- StepKeepsOutputInvariant: PARSE presented in a state that meets it. -/
theorem witness_output_step :
    nextHas (step { finished8 activeAck with ackMatch := true, port := [.command 0x50000000] }) (fun t =>
      !t.ackMatch) = true := by decide

/-- RdstartForgetsTheEarlierRead: two states that differ in the read, one of them half-matched. -/
theorem witness_different_reads :
    (reader .awaitingHeader2 4 0 5).txf = State.reset.txf ∧
    (reader .awaitingHeader2 4 0 5).txfValid = State.reset.txfValid ∧
    (reader .awaitingHeader2 4 0 5).port = State.reset.port ∧ reader .awaitingHeader2 4 0 5 ≠ State.reset := by decide

/-- FeedOutsideAReadWritesNothing: its three phases. -/
theorem witness_inactive_phases :
    State.reset.phase = .idle ∧ (finished32 t32).phase = .finished ∧ (reader .failed 4 3 0).phase = .failed := by decide

/-- ByteInAwaitingHeader1, ByteInAwaitingHeader2, EqualHeaderBytesSynchronise, DoubledHeaderIsMissed. -/
theorem witness_awaiting_phases :
    (reader .awaitingHeader1 4 0 0).phase = .awaitingHeader1 ∧
    (reader .awaitingHeader2 4 0 0).phase = .awaitingHeader2 := by decide

/-- ByteInCollecting, BufferWritesStayBelowLength: at the last index of BUF. -/
theorem witness_collecting :
    ReaderInv (reader .collecting 32 31 0 (t32.take 31)) ∧ (reader .collecting 32 31 0 (t32.take 31)).phase = .collecting ∧
    nextHas (exec (.feedb 0x68) (reader .collecting 32 31 0 (t32.take 31))) (fun t => decide (t.cursor = 32)) = true :=
  ⟨by constructor <;> decide, rfl, by decide⟩

/-- NotReadyConsumesRetry, FaultConsumesRetryLikeNotReady, FailureIsExact: the active phases, with budget and without. -/
theorem witness_active_phases :
    (reader .awaitingHeader1 4 0 1).phase.isActive = true ∧ (reader .awaitingHeader2 4 0 1).phase.isActive = true ∧
    (reader .collecting 4 3 1).phase.isActive = true ∧ (reader .collecting 4 3 1).retry ≠ 0 ∧
    (reader .collecting 4 3 0).phase.isActive = true ∧ (reader .collecting 4 3 0).retry = 0 := by decide

/-- ResultOfAFeed, RepeatingACommandIsIdempotent, EncodingDuringAReadCommutes: a feed that writes and one that does not. -/
theorem witness_feeds :
    exec (feedInstr .notReady) (reader .awaitingHeader1 4 0 0) = .next (reader .failed 4 0 0 [] .readFailed) ∧
    exec (feedInstr .notReady) State.reset = .next State.reset ∧
    nextHas (execAll [.encode 0xE2 0, feedInstr (.byte 0x4D)] (reader .awaitingHeader2 4 0 2)) (fun t =>
      decide (t.phase = .collecting)) = true ∧
    nextHas (execAll [feedInstr (.byte 0x4D), .encode 0xE2 0] (reader .awaitingHeader2 4 0 2)) (fun t =>
      decide (t.phase = .collecting)) = true := ⟨rfl, rfl, by decide, by decide⟩

/-- ToleratedStreamFinishes: noise and stalls that use the whole budget (V-R-24 with one noise byte before it). -/
theorem witness_tolerated_stream :
    wellFormed (.rdstart 4 4) = true ∧
    (∀ o ∈ [ReadOutcome.byte 0x13], o ≠ .byte 0x42) ∧ (∀ o ∈ [ReadOutcome.notReady], o.isStall = true) ∧
    (∀ p ∈ [([ReadOutcome.fault], (0x11 : Byte)), ([.notReady], 0x33)], ∀ o ∈ p.1, o.isStall = true) ∧
    [([ReadOutcome.fault], (0x11 : Byte)), ([.notReady], 0x33)].length + 2 = (4 : Byte).toNat ∧
    [ReadOutcome.byte 0x13].length + [ReadOutcome.notReady].length +
      burstStalls [([.fault], 0x11), ([.notReady], 0x33)] ≤ (4 : Half).toNat := by decide

/-- AlternationKeepsTheReadActive. -/
theorem witness_alternation :
    (reader .awaitingHeader1 4 0 0).phase = .awaitingHeader1 ∧ (∀ x ∈ [(0x00 : Byte), 0x42], x ≠ 0x4D) ∧
    [(0x00 : Byte), 0x42] ≠ [] := by decide

/-- OnlyAlternationNeverEnds: V-R-21's stream keeps a read of budget 0 active for ever. -/
theorem witness_endless_read :
    ReaderInv (reader .awaitingHeader1 4 0 0) ∧ (reader .awaitingHeader1 4 0 0).phase.isActive = true ∧
    ∀ n, ∃ t, runFeeds ((List.range n).map fun k => if k % 2 = 0 then .byte 0x42 else .byte 0x00)
      (reader .awaitingHeader1 4 0 0) = .next t ∧ t.phase.isActive = true := by
  refine ⟨by constructor <;> decide, rfl, ?_⟩
  have key : ∀ n k, ∃ t, runFeeds ((List.range' k n).map fun k => if k % 2 = 0 then .byte 0x42 else .byte 0x00)
      (reader (if k % 2 = 0 then .awaitingHeader1 else .awaitingHeader2) 4 0 0) = .next t ∧ t.phase.isActive = true := by
    intro n
    induction n with
    | zero =>
      intro k
      refine ⟨_, runFeeds_nil _, ?_⟩
      by_cases h : k % 2 = 0
      · rw [if_pos h]
        rfl
      · rw [if_neg h]
        rfl
    | succ n ih =>
      intro k
      obtain ⟨t, h1, h2⟩ := ih (k + 1)
      refine ⟨t, ?_, h2⟩
      rw [List.range'_succ, List.map_cons, runFeeds_cons, ← h1]
      by_cases h : k % 2 = 0
      · rw [if_pos h, if_pos h, if_neg (show ¬ (k + 1) % 2 = 0 by omega)]
        rfl
      · rw [if_neg h, if_neg h, if_pos (show (k + 1) % 2 = 0 by omega)]
        rfl
  intro n
  rw [List.range_eq_range']
  exact key n 0

/-- ReadFailsOnlyOnASpentBudget. -/
theorem witness_read_fails :
    step { reader .awaitingHeader1 4 0 0 with port := [.command 0x20000200] } =
      .next (reader .failed 4 0 0 [] .readFailed) ∧ (reader .awaitingHeader1 4 0 0).phase ≠ .failed := ⟨rfl, by decide⟩

/-- FailedLastsUntilRdstartOrReset: both ways out. -/
theorem witness_failed_ends :
    step { reader .failed 4 0 0 [] .readFailed with port := [.command 0x10040002] } =
      .next (startRead 4 2 State.reset) ∧
    step { reader .failed 4 0 0 [] .readFailed with port := [.rst none] } = .next State.reset := ⟨rfl, rfl⟩

/-- OnlyEncodeAndResetWriteTheTransmitFrame: both ways. -/
theorem witness_txf_changes :
    nextHas (step { State.reset with port := [.command 0x30E10001] }) (fun t => t.txfValid) = true ∧
    nextHas (step { State.reset with txfValid := true, port := [.rst none] }) (fun t => !t.txfValid) = true := by decide

/-- EachCommandWritesOnlyItsRegisters: its clauses, the byte writes at the header match and at the cursor. -/
theorem witness_register_writes :
    mayWrite .parse .phase = false ∧ mayWrite (.rdstart 4 0) (.txf 6) = false ∧
    nextHas (exec (.feedb 0x4D) (reader .awaitingHeader2 4 0 0)) (fun t =>
      decide (t.buf[1] ≠ (reader .awaitingHeader2 4 0 0).buf[1])) = true ∧
    nextHas (exec (.feedb 0x33) (reader .collecting 4 3 0)) (fun t =>
      decide (t.buf[3] ≠ (reader .collecting 4 3 0).buf[3])) = true ∧
    (finished32 t32).phase.isActive = false ∧
    nextHas (runWord 0 (reader .failed 4 3 0)) (fun t => decide (t.result = .illegalOp)) = true := by decide

/-- ParseDecodesAValidFrame and ParseWithholdsABadFrame. -/
theorem witness_parse_frames :
    (finished32 t32).phase = .finished ∧ (finished32 t32).len = 32 ∧
    (finished32 t32).buf[30] ++ (finished32 t32).buf[31] =
      BitVec.ofNat 16 (∑ i : Fin 30, ((finished32 t32).buf[i.val]).toNat) ∧
    (finished32 (t32.set 5 6)).buf[30] ++ (finished32 (t32.set 5 6)).buf[31] ≠
      BitVec.ofNat 16 (∑ i : Fin 30, ((finished32 (t32.set 5 6)).buf[i.val]).toNat) := by decide

/-- CodecRefusesAnUnfinishedFrame: V-P-9 to V-P-12 and V-A-8. -/
theorem witness_unfinished_frames :
    State.reset.phase ≠ .finished ∧ (reader .failed 32 32 0 t32).phase ≠ .finished ∧
    (finished8 activeAck).len ≠ 32 ∧ (finished32 t32).len ≠ 8 := by decide

/-- ParseAcceptsExactlyTheTrueSum: the smallest byte 30 that always fails (V-P-7). -/
theorem witness_high_checksum : 0x1E ≤ (bytes 32 (t32.set 30 0x1E))[30].toNat := by decide

/-- ChecksumMissesExactlyBalancedChanges: a changed byte; V-P-4's permutation; V-P-8's compensating change; and V-P-5's
change of the sum and the stored checksum alike. -/
theorem witness_checksum_changes :
    parseTelemetry (bytes 32 t32) = .ok (telemetryFields (bytes 32 t32)) ∧ (0x06 : Byte) ≠ (bytes 32 t32)[5] ∧
    ((bytes 32 t32).toList.take 30).Perm ((bytes 32 ((t32.set 4 5).set 5 0)).toList.take 30) ∧
    (∑ i : Fin 30, ((bytes 32 t32)[i.val]).toNat) =
      (∑ i : Fin 30, ((bytes 32 ((t32.set 6 1).set 7 6))[i.val]).toNat) ∧
    (∑ i : Fin 30, ((bytes 32 ((t32.set 3 0).set 31 0x4C))[i.val]).toNat) + 0x0168 =
      (∑ i : Fin 30, ((bytes 32 t32)[i.val]).toNat) + 0x014C := by
  refine ⟨by rfl, by decide, by decide, by decide, by decide⟩

/-- TelemetryFrameRoundTrips: T32's record. -/
theorem witness_telemetry_record :
    (telemetryFields (bytes 32 t32)).csum.toNat =
      ∑ i : Fin 30, ((telemetryLayout (telemetryFields (bytes 32 t32)))[i.val]).toNat := by decide

/-- AckcmpComparesTheSelectedLiteral, AtMostOneSelectorMatches: a match and a mismatch. -/
theorem witness_ack_frames :
    (finished8 activeAck).phase = .finished ∧ (finished8 activeAck).len = 8 ∧
    (∀ i : Fin 8, (finished8 activeAck).buf[i.val] = (ackLiteral .active)[i.val]) ∧
    (¬ ∀ i : Fin 8, (finished8 activeAck).buf[i.val] = (ackLiteral .passive)[i.val]) ∧
    nextHas (exec (.ackcmp .active) (finished8 activeAck)) (fun t => decide (t.result = .ok)) = true := by decide

/-- CodecIsIndependentOfTheReader: two states that agree in PHASE, LEN and BUF only, and both answers that write. -/
theorem witness_codec_states :
    (finished32 t32).phase = (reader .finished 32 32 9 t32 .readFailed).phase ∧
    (finished32 t32).buf = (reader .finished 32 32 9 t32 .readFailed).buf ∧
    finished32 t32 ≠ reader .finished 32 32 9 t32 .readFailed ∧
    nextHas (exec .parse (reader .finished 32 32 9 t32 .readFailed)) (fun t => decide (t.result = .ok)) = true := by
  decide

/-- ChecksApplyInTheStatedOrder: a word of each clause. -/
theorem witness_check_order :
    decode 0x50000003 = .error .selectorIllegal ∧ decode 0x40000000 = .ok .parse ∧
    decode 0x50000001 = .ok (.ackcmp .active) ∧ decode 0x10200000 = .ok (.rdstart 32 0) ∧
    decode 0x30E20000 = .ok (.encode 0xE2 0) ∧ decode 0x20000100 = .ok (feedInstr .notReady) ∧
    nextHas (runWord 0x20000100 (reader .awaitingHeader1 8 0 0)) (fun t => decide (t.result = .readFailed)) = true ∧
    nextHas (runWord 0x40000000 (reader .failed 32 3 0)) (fun t => decide (t.result = .stateError)) = true ∧
    nextHas (runWord 0x40000000 (finished32 (t32.set 31 0x69))) (fun t => decide (t.result = .checksumError)) = true := by
  decide

/-- FailedAcknowledgementReadIsNoResponse: an 8-byte and a 32-byte read that fail at this step, and a failed 8-byte
read. -/
theorem witness_failed_ack_read :
    exec (feedInstr .fault) (reader .awaitingHeader2 8 0 0) = .next (reader .failed 8 0 0 [] .readFailed) ∧
    exec (feedInstr .fault) (reader .awaitingHeader2 32 0 0) = .next (reader .failed 32 0 0 [] .readFailed) ∧
    (reader .awaitingHeader2 8 0 0).phase.isActive = true ∧
    (reader .failed 8 0 0 [] .readFailed).phase = .failed := ⟨rfl, rfl, rfl, rfl⟩

/-- RegistersDetermineTheNextRegisters: equal registers, equal next input, different later inputs. -/
theorem witness_same_registers :
    sameRegisters { State.reset with port := [.command 0x10030000] }
      { State.reset with port := [.command 0x10030000, .rst none] } ∧
    ({ State.reset with port := [.command 0x10030000] } : State).port.head? =
      ({ State.reset with port := [.command 0x10030000, .rst none] } : State).port.head? := ⟨rfl, rfl⟩

/-- ValidOutputsDescribeTheFrame: each output valid. -/
theorem witness_valid_outputs :
    finishedFrame (finished8 activeAck) = some activeAck ∧
    validTxFrame { finished8 activeAck with txf := cmdFrame 0xE2 0, txfValid := true } =
      some [0x42, 0x4D, 0xE2, 0x00, 0x00, 0x01, 0x71] ∧
    (validTelemetry { finished32 t32 with tlmValid := true }).isSome = true := by decide

/-- AssemblerRefusesOperandsThatDoNotFit, AssembledWordsAreLegal: at the ends of the ranges. -/
theorem witness_assembled :
    asmRdstart 3 65535 = some (.rdstart 3 65535) ∧ asmRdstart 32 65536 = none ∧ asmFeedb 255 = some (.feedb 255) ∧
    asmFeedb 256 = none ∧ asmEncode 255 65535 = some (.encode 255 65535) ∧
    assembleWords "ENC_WAKE".toList = some [0x30E40001] := by decide

end Sys2Proof.Tests
end

/-! PROOFS. The decoder reads back the word of every well-formed command (30_encoding.md R63 to R69). -/

namespace Sys2Proof

/-! ### Fields of the RDSTART and ENCODE format -/

theorem byteHalf_fieldReserved4 (op : BitVec 4) (a : Byte) (d : Half) :
    fieldReserved4 (op ++ (0#4) ++ a ++ d) = 0#4 := by
  apply BitVec.eq_of_toNat_eq
  rw [fieldReserved4, field_toNat, byteHalf_toNat, BitVec.toNat_ofNat]
  have := a.isLt
  have := d.isLt
  omega

theorem byteHalf_fieldByteHigh (op : BitVec 4) (a : Byte) (d : Half) :
    fieldByteHigh (op ++ (0#4) ++ a ++ d) = a := by
  apply BitVec.eq_of_toNat_eq
  rw [fieldByteHigh, field_toNat, byteHalf_toNat]
  have := a.isLt
  have := d.isLt
  omega

theorem byteHalf_fieldHalf (op : BitVec 4) (a : Byte) (d : Half) :
    fieldHalf (op ++ (0#4) ++ a ++ d) = d := by
  apply BitVec.eq_of_toNat_eq
  rw [fieldHalf, field_toNat, byteHalf_toNat]
  have := d.isLt
  omega

/-! ### Decoding what was encoded -/

theorem decode_encode_rdstart {l : Byte} {b : Half} (h : wellFormed (.rdstart l b) = true) :
    decode (encode (.rdstart l b)) = .ok (.rdstart l b) := by
  have hl : Config.lenMin ≤ l.toNat ∧ l.toNat ≤ Config.maxLen := by simpa [wellFormed] using h
  rw [encode, decode, Laws.OpField.byteHalf_op, if_pos rfl, decodeRdstart, byteHalf_fieldReserved4, if_pos rfl,
    byteHalf_fieldByteHigh, byteHalf_fieldHalf, if_pos hl]

theorem decode_encode_encode (o : Byte) (d : Half) : decode (encode (.encode o d)) = .ok (.encode o d) := by
  rw [encode, decode, Laws.OpField.byteHalf_op, if_neg (by decide), if_neg (by decide), if_pos rfl, decodeEncode,
    byteHalf_fieldReserved4, if_pos rfl, byteHalf_fieldByteHigh, byteHalf_fieldHalf]

/-- A well-formed command's word decodes to the command (R63 to R69). -/
theorem decode_encode {i : Instr} (h : wellFormed i = true) : decode (encode i) = .ok i := by
  cases i with
  | rdstart l b => exact decode_encode_rdstart h
  | feedb b => exact decode_encode_feedb b
  | feedn => decide
  | feedf => decide
  | encode o d => exact decode_encode_encode o d
  | parse => decide
  | ackcmp sel => cases sel <;> decide

end Sys2Proof

namespace Sys2Proof.Machine

/-! ### The step (00_scope.md R3, 60_exceptions.md R121) -/

/-- Settles O6: both halves are the model's own step lemmas. -/
theorem stepRunsTheDecodedCommand : Obligations.StepRunsTheDecodedCommand := by
  intro s w i rest hport hdecode
  rw [step_command hport, runWord_ok hdecode]

/-- Settles O11: each of the four things a step can do answers a next state, and a command keeps the port it is given. -/
theorem everyStepAnswersANextState : Obligations.EveryStepAnswersANextState := by
  intro s
  rcases step_cases s with
    ⟨hport, hstep⟩ | ⟨c, rest, hport, hstep⟩ | ⟨w, i, rest, hport, -, hstep⟩ | ⟨w, e, rest, hport, -, hstep⟩
  case inl => exact ⟨s, hstep, by simp [hport]⟩
  case inr.inl => exact ⟨_, hstep, by simp [hport]⟩
  case inr.inr.inl =>
    obtain ⟨t, hexec, htail⟩ := exec_next i { s with port := rest }
    exact ⟨t, hstep.trans hexec, by rw [htail, hport, List.tail_cons]⟩
  case inr.inr.inr => exact ⟨_, hstep, by simp [hport]⟩

/-! ### Presented commands (20_memory.md R52) -/

theorem execAll_cons {i : Instr} {s t : State} (h : exec i s = .next t) (is : List Instr) :
    execAll (i :: is) s = execAll is t := by
  simp only [execAll, h]

/-- With a well-formed command presented first, a step executes it and leaves the others presented. -/
theorem step_present_cons {i : Instr} (hi : wellFormed i = true) (is : List Instr) (s : State) :
    ∃ t, exec i s = .next t ∧ t.port = s.port ∧ step (present (i :: is) s) = .next (present is t) := by
  obtain ⟨t, hexec, hthrough⟩ := exec_port i s (is.map (fun i => .command (encode i)) ++ s.port)
  obtain ⟨t', hexec', hport⟩ := exec_next i s
  obtain rfl : t = t' := Host.Outcome.next.inj (hexec.symm.trans hexec')
  refine ⟨t, hexec, hport, ?_⟩
  rw [step_command (w := encode i) rfl, runWord_ok (decode_encode hi)]
  refine hthrough.trans ?_
  rw [present, hport]

/-- Settles O12, by induction on the presented commands: the first step executes the first command and leaves the rest
presented to the state it gives. -/
theorem presentedCommandsRunInOrder : Obligations.PresentedCommandsRunInOrder := by
  intro is
  induction is with
  | nil => exact fun s _ => ⟨rfl, s, rfl, rfl⟩
  | cons i is ih =>
    intro s hwf
    obtain ⟨hi, his⟩ := List.forall_mem_cons.mp hwf
    obtain ⟨t, hexec, hport, hstep⟩ := step_present_cons hi is s
    obtain ⟨hrun, u, hall, hu⟩ := ih t his
    rw [execAll_cons hexec]
    exact ⟨(run_succ hstep is.length).trans hrun, u, hall, hu.trans hport⟩

/-! ### Equal header bytes (00_scope.md R7, 40_reader.md R85 edge case (a)) -/

/-- Settles O27: the byte matches HDR1 in AwaitingHeader1 (R89), then HDR2 in AwaitingHeader2 (R90). -/
theorem equalHeaderBytesSynchronise : Obligations.EqualHeaderBytesSynchronise := by
  intro h s hs
  rw [readerStep_header1 h h h hs, if_pos rfl, readerStep_header2 h h h rfl, if_pos rfl]

/-! ### When a telemetry frame passes (41_codec.md R109, R110, R112) -/

theorem memRead16_toNat {n : Nat} (F : Vector Byte n) (i : Nat) (h : i + 1 < n) :
    (memRead16 F i h).toNat = F[i].toNat * 256 + F[i + 1].toNat := append_toNat _ _

/-- Thirty bytes cannot overflow the 16-bit sum (R110). -/
theorem telemetrySum_toNat (F : Vector Byte 32) : (telemetrySum F).toNat = ∑ i : Fin 30, (F[i.val]).toNat :=
  (byteSum16_toNat F 0 30 (by decide)).trans (byteSum_eq_sum F 30 (by decide))

/-- A frame passes exactly when its stored checksum is the true sum of its first thirty bytes (R110). -/
theorem parseTelemetry_ok_iff (F : Vector Byte 32) :
    (∃ r, parseTelemetry F = .ok r) ↔ F[30].toNat * 256 + F[31].toNat = ∑ i : Fin 30, (F[i.val]).toNat := by
  rw [← memRead16_toNat F 30 (by decide), ← telemetrySum_toNat, BitVec.toNat_inj]
  by_cases h : memRead16 F 30 = telemetrySum F <;> simp [parseTelemetry, h]

/-- A frame that does not pass is a checksum error (R109). -/
theorem parseTelemetry_error_iff (F : Vector Byte 32) :
    parseTelemetry F = .error .checksumError ↔ ¬ ∃ r, parseTelemetry F = .ok r := by
  by_cases h : memRead16 F 30 = telemetrySum F <;> simp [parseTelemetry, h]

/-- A changed frame passes exactly when the sum and the stored checksum moved alike (R112). -/
theorem parseTelemetry_changed_ok_iff {F : Vector Byte 32} {r : Telemetry} (hF : parseTelemetry F = .ok r)
    (G : Vector Byte 32) :
    (∃ r', parseTelemetry G = .ok r') ↔
      (∑ i : Fin 30, (G[i.val]).toNat) + (F[30].toNat * 256 + F[31].toNat) =
        (∑ i : Fin 30, (F[i.val]).toNat) + (G[30].toNat * 256 + G[31].toNat) := by
  have hsum := (parseTelemetry_ok_iff F).mp ⟨r, hF⟩
  rw [parseTelemetry_ok_iff, hsum]
  omega

/-! ### One changed byte -/

/-- Changing a summed byte moves the sum by the byte's change. -/
theorem sum_set_of_lt (F : Vector Byte 32) {j : Nat} (hj : j < 30) (b : Byte) :
    (∑ i : Fin 30, ((F.set j b)[i.val]).toNat) + F[j].toNat = (∑ i : Fin 30, (F[i.val]).toNat) + b.toNat := by
  have hupdate : (fun i : Fin 30 => ((F.set j b)[i.val]).toNat) =
      Function.update (fun i : Fin 30 => (F[i.val]).toNat) ⟨j, hj⟩ b.toNat := by
    funext i
    by_cases hij : j = i.val
    · subst hij
      simp
    · rw [Vector.getElem_set_ne _ _ hij, Function.update_of_ne (Fin.ne_of_val_ne (Ne.symm hij))]
  have hsplit : (∑ i : Fin 30, (F[i.val]).toNat) =
      F[j].toNat + ∑ i ∈ Finset.univ \ {(⟨j, hj⟩ : Fin 30)}, (F[i.val]).toNat :=
    Finset.sum_eq_add_sum_sdiff_singleton_of_mem (Finset.mem_univ (⟨j, hj⟩ : Fin 30)) fun i => (F[i.val]).toNat
  rw [hupdate, Finset.sum_update_of_mem (Finset.mem_univ _), hsplit]
  omega

/-- Changing a checksum byte leaves the sum. -/
theorem sum_set_of_ge (F : Vector Byte 32) {j : Nat} (hj : 30 ≤ j) (hj' : j < 32) (b : Byte) :
    (∑ i : Fin 30, ((F.set j b)[i.val]).toNat) = ∑ i : Fin 30, (F[i.val]).toNat := by
  refine Finset.sum_congr rfl fun i _ => ?_
  rw [Vector.getElem_set_ne]
  omega

/-- A change of one byte is always detected: it moves the sum or the stored checksum, never both. -/
theorem parseTelemetry_set_error {F : Vector Byte 32} {r : Telemetry} (hF : parseTelemetry F = .ok r) {j : Nat}
    (hj : j < 32) {b : Byte} (hb : b ≠ F[j]) : parseTelemetry (F.set j b) = .error .checksumError := by
  rw [parseTelemetry_error_iff, parseTelemetry_changed_ok_iff hF]
  have hne : b.toNat ≠ F[j].toNat := fun h => hb (BitVec.eq_of_toNat_eq h)
  by_cases hsummed : j < 30
  · have hsum := sum_set_of_lt F hsummed b
    rw [Vector.getElem_set_ne (h := by omega), Vector.getElem_set_ne (h := by omega)]
    omega
  · rw [sum_set_of_ge F (by omega) hj]
    obtain rfl | rfl : j = 30 ∨ j = 31 := by omega
    all_goals
      rw [Vector.getElem_set_self, Vector.getElem_set_ne (h := by decide)]
      omega

/-! ### Unchanged checksum bytes, and a permutation -/

/-- With the stored checksum unchanged, a frame still passes exactly when the sum is the same. -/
theorem parseTelemetry_ok_iff_sum_eq {F G : Vector Byte 32} {r : Telemetry} (hF : parseTelemetry F = .ok r)
    (h30 : F[30] = G[30]) (h31 : F[31] = G[31]) :
    (∃ r', parseTelemetry G = .ok r') ↔ (∑ i : Fin 30, (F[i.val]).toNat) = ∑ i : Fin 30, (G[i.val]).toNat := by
  rw [parseTelemetry_changed_ok_iff hF, h30, h31, Nat.add_right_cancel_iff, eq_comm]

/-- The sum does not depend on the order of the bytes. -/
theorem sum_eq_of_perm {F G : Vector Byte 32} (h : (F.toList.take 30).Perm (G.toList.take 30)) :
    (∑ i : Fin 30, (F[i.val]).toNat) = ∑ i : Fin 30, (G[i.val]).toNat := by
  rw [← byteSum_eq_sum F 30 (by decide), ← byteSum_eq_sum G 30 (by decide)]
  exact (h.map BitVec.toNat).sum_eq

/-- Settles O45: the equivalence over every change, then its three special cases. -/
theorem checksumMissesExactlyBalancedChanges : Obligations.ChecksumMissesExactlyBalancedChanges :=
  ⟨fun _ G _ hF => parseTelemetry_changed_ok_iff hF G,
    fun _ _ _ hF h30 h31 => parseTelemetry_ok_iff_sum_eq hF h30 h31,
    fun _ _ j _ hF hb => parseTelemetry_set_error hF j.isLt hb,
    fun _ _ _ hF hperm h30 h31 => (parseTelemetry_ok_iff_sum_eq hF h30 h31).mpr (sum_eq_of_perm hperm)⟩

end Sys2Proof.Machine

/-! PROOFS. The state: reset, what the output registers say of BUF, the frame of each command, the output view
(10_state.md R21 to R38). -/

namespace Sys2Proof

/-! ### What a decoded RDSTART and a decoded ENCODE say of the word (30_encoding.md R63, R65, R69) -/

theorem decode_eq_rdstart {w : Word} {l : Byte} {b : Half} (h : decode w = .ok (.rdstart l b)) :
    3 ≤ l.toNat ∧ l.toNat ≤ 32 := by
  simp only [decode, decodeRdstart, decodeFeed, decodeEncode, decodeParse, decodeAckcmp] at h
  split_ifs at h with _ _ hrange <;> cases h
  exact hrange

theorem decode_eq_encode {w : Word} {o : Byte} {d : Half} (h : decode w = .ok (.encode o d)) :
    fieldOp w = 0x3#4 ∧ fieldReserved4 w = 0#4 ∧ o = fieldByteHigh w ∧ d = fieldHalf w := by
  simp only [decode, decodeRdstart, decodeFeed, decodeEncode, decodeParse, decodeAckcmp] at h
  split_ifs at h <;> cases h
  exact ⟨‹_›, ‹_›, rfl, rfl⟩

/-- A word is its OP, bits 27:24, byte and halfword fields put together again. -/
theorem byteHalf_fields (w : Word) :
    fieldOp w ++ fieldReserved4 w ++ fieldByteHigh w ++ fieldHalf w = w := by
  rw [fieldOp, fieldReserved4, fieldByteHigh, fieldHalf, BitVec.extractLsb'_append_extractLsb'_eq_extractLsb' (by rfl),
    BitVec.extractLsb'_append_extractLsb'_eq_extractLsb' (by rfl),
    BitVec.extractLsb'_append_extractLsb'_eq_extractLsb' (by rfl), BitVec.extractLsb'_eq_self]

/-- A word that decodes to an ENCODE is that command's word: no bit of it is ignored (R72). -/
theorem encode_of_decode_eq_encode {w : Word} {o : Byte} {d : Half} (h : decode w = .ok (.encode o d)) :
    encode (.encode o d) = w := by
  obtain ⟨hop, hres, rfl, rfl⟩ := decode_eq_encode h
  rw [encode, ← hop, ← hres, byteHalf_fields]

end Sys2Proof

namespace Sys2Proof.Machine

/-! ### After reset (R38) -/

/-- Settles O9: every register is read off the reset state; an array's element is an element of the all-0 array. -/
theorem resetValues : Obligations.ResetValues := by
  refine ⟨rfl, rfl, rfl, rfl, fun i => ?_, rfl, rfl, rfl, rfl, rfl, fun k => ?_, rfl, rfl, rfl, fun i => ?_, rfl, rfl⟩
  · simp
  · simp [Telemetry.zero]
  · simp

/-- Settles O13: the phase is Idle, so only the clauses about the ranges and the bytes above LEN say anything. -/
theorem readerInvariantAtReset : Obligations.ReaderInvariantAtReset where
  awaiting_cursor _ := rfl
  collecting h := by simp at h
  finished h := by simp at h
  length h := by simp at h
  tail_zero _ _ := by simp
  awaiting_zero _ _ := by simp
  len_range := by simp
  cursor_range := by simp

/-! ### What the output registers say of BUF (R29 to R32) -/

variable {s t : State}

/-- Outputs that are all cleared claim nothing of BUF: only TXF is left to speak of. -/
theorem outputInv_of_cleared (hvalid : s.tlmValid = false) (htlm : s.tlm = Telemetry.zero) (hcsum : s.csumCalc = 0)
    (hack : s.ackMatch = false) (htxf0 : s.txfValid = false → s.txf = Vector.replicate 7 0)
    (htxf1 : s.txfValid = true → ∃ opc data, s.txf = cmdFrame opc data) : OutputInv s where
  tlm_invalid _ := htlm
  tlm_valid h := by simp [hvalid] at h
  csum h := absurd hcsum h
  ack h := by simp [hack] at h
  txf_invalid := htxf0
  txf_valid := htxf1

theorem outputInv_takeReset (s : State) : OutputInv (takeReset s) :=
  outputInv_of_cleared rfl rfl rfl rfl (fun _ => rfl) nofun

/-- Settles O16: reset clears every output. -/
theorem outputInvariantAtReset : Obligations.OutputInvariantAtReset :=
  outputInv_takeReset State.reset

/-- Without a finished frame every output that speaks of BUF is cleared. -/
theorem OutputInv.cleared (h : OutputInv s) (hp : s.phase ≠ .finished) :
    s.tlmValid = false ∧ s.tlm = Telemetry.zero ∧ s.csumCalc = 0 ∧ s.ackMatch = false := by
  have hvalid : s.tlmValid = false := Bool.eq_false_iff.mpr fun hv => hp (h.tlm_valid hv).1
  refine ⟨hvalid, h.tlm_invalid hvalid, ?_, Bool.eq_false_iff.mpr fun ha => hp (h.ack ha).1⟩
  by_contra hc
  exact hp (h.csum hc).1

/-- Neither RESULT nor what the host presents is an output that speaks of BUF or of a frame. -/
theorem OutputInv.with_result_port (h : OutputInv s) (e : ResultCode) (p : List PortInput) :
    OutputInv { s with result := e, port := p } :=
  ⟨h.tlm_invalid, h.tlm_valid, h.csum, h.ack, h.txf_invalid, h.txf_valid⟩

/-- RDSTART clears every output that speaks of BUF, and leaves TXF (R86). -/
theorem OutputInv.after_startRead (h : OutputInv s) (l : Byte) (b : Half) : OutputInv (startRead l b s) :=
  outputInv_of_cleared rfl rfl rfl rfl h.txf_invalid h.txf_valid

/-- A read outcome changes BUF only in an active phase, where no output speaks of it. -/
theorem OutputInv.after_readerStep (h : OutputInv s) (h1 h2 : Byte) (o : ReadOutcome) :
    OutputInv (readerStep h1 h2 o s) := by
  cases hactive : s.phase.isActive with
  | false => rwa [readerStep_inactive h1 h2 o hactive]
  | true =>
    have hp : s.phase ≠ .finished := by
      intro hp
      simp [hp, Phase.isActive] at hactive
    obtain ⟨hvalid, htlm, hcsum, hack⟩ := h.cleared hp
    obtain ⟨-, ktxf, ktxfValid, ktlm, kvalid, kcsum, kack, -⟩ := readerStep_keeps h1 h2 o s
    refine outputInv_of_cleared (kvalid.trans hvalid) (ktlm.trans htlm) (kcsum.trans hcsum) (kack.trans hack) ?_ ?_
    · rw [ktxf, ktxfValid]
      exact h.txf_invalid
    · rw [ktxf, ktxfValid]
      exact h.txf_valid

/-- ENCODE writes a command frame (R105). -/
theorem OutputInv.after_encode (h : OutputInv s) (o : Byte) (d : Half) :
    OutputInv (complete (setTxFrame (cmdFrame o d) s)) :=
  ⟨h.tlm_invalid, h.tlm_valid, h.csum, h.ack, nofun, fun _ => ⟨o, d, rfl⟩⟩

/-- PARSE of a finished 32-byte frame stores its sum, and its record exactly when it accepts it (R108). -/
theorem OutputInv.after_parseFrame (h : OutputInv s) (hp : s.phase = .finished) (hl : s.len = 32) :
    OutputInv (parseFrame s) := by
  rcases parseFrame_cases s with ⟨-, hparse, e⟩ | ⟨-, -, e⟩ <;> rw [e]
  · exact ⟨nofun, fun _ => ⟨hp, hl, hparse, rfl⟩, fun _ => ⟨hp, hl, rfl⟩, h.ack, h.txf_invalid, h.txf_valid⟩
  · exact ⟨fun _ => rfl, nofun, fun _ => ⟨hp, hl, rfl⟩, h.ack, h.txf_invalid, h.txf_valid⟩

/-- ACKCMP of a finished 8-byte frame sets ACK_MATCH exactly when the frame is the selected literal (R113). -/
theorem OutputInv.after_compareAck (h : OutputInv s) (hp : s.phase = .finished) (hl : s.len = 8) (sel : AckSel) :
    OutputInv (compareAck sel s) := by
  rcases compareAck_cases sel s with ⟨hmatch, e⟩ | ⟨-, e⟩ <;> rw [e]
  · exact ⟨h.tlm_invalid, h.tlm_valid, h.csum, fun _ => ⟨hp, hl, sel, hmatch⟩, h.txf_invalid, h.txf_valid⟩
  · exact ⟨h.tlm_invalid, h.tlm_valid, h.csum, nofun, h.txf_invalid, h.txf_valid⟩

/-- Every command keeps what the output registers say. -/
theorem OutputInv.after_exec (h : OutputInv s) (i : Instr) : ∃ t, exec i s = .next t ∧ OutputInv t := by
  cases i with
  | rdstart l b => exact ⟨_, rfl, h.after_startRead l b⟩
  | feedb b => exact ⟨_, rfl, h.after_readerStep _ _ _⟩
  | feedn => exact ⟨_, rfl, h.after_readerStep _ _ _⟩
  | feedf => exact ⟨_, rfl, h.after_readerStep _ _ _⟩
  | encode o d => exact ⟨_, rfl, h.after_encode o d⟩
  | parse =>
    rcases exec_parse_cases s with ⟨⟨hp, hl⟩, e⟩ | ⟨-, e⟩
    · exact ⟨_, e, h.after_parseFrame hp hl⟩
    · exact ⟨_, e, h.with_result_port .stateError s.port⟩
  | ackcmp sel =>
    rcases exec_ackcmp_cases sel s with ⟨⟨hp, hl⟩, e⟩ | ⟨-, e⟩
    · exact ⟨_, e, h.after_compareAck hp hl sel⟩
    · exact ⟨_, e, h.with_result_port .stateError s.port⟩

/-- Settles O17, by what a step can do: nothing, a reset, a command, or the result of an illegal word. -/
theorem stepKeepsOutputInvariant : Obligations.StepKeepsOutputInvariant := by
  intro s t h hstep
  rcases step_cases s with ⟨-, e⟩ | ⟨c, rest, -, e⟩ | ⟨w, i, rest, -, -, e⟩ | ⟨w, r, rest, -, -, e⟩
  case inr.inr.inl =>
    obtain ⟨u, hexec, hu⟩ := (h.with_result_port s.result rest).after_exec i
    cases hstep.symm.trans (e.trans hexec)
    exact hu
  all_goals cases hstep.symm.trans e
  · exact h
  · exact outputInv_takeReset _
  · exact h.with_result_port .illegalOp rest

/-! ### Outputs read under their conditions (70_reset_and_hazards.md R154) -/

theorem validTelemetry_eq_some {r : Telemetry} : validTelemetry s = some r ↔ s.tlmValid = true ∧ s.tlm = r := by
  simp [validTelemetry]

theorem validTxFrame_eq_some {f : List Byte} : validTxFrame s = some f ↔ s.txfValid = true ∧ s.txf.toList = f := by
  simp [validTxFrame]

theorem finishedFrame_eq_some {f : List Byte} :
    finishedFrame s = some f ↔ s.phase = .finished ∧ s.buf.toList.take s.len.toNat = f := by
  simp [finishedFrame]

/-- The first two of at least two bytes taken from BUF. -/
theorem take_two_of_buf (F : Vector Byte 32) {n : Nat} (hn : 2 ≤ n) : (F.toList.take n).take 2 = [F[0], F[1]] := by
  rw [List.take_take, Nat.min_eq_left hn]
  refine List.ext_getElem (by simp) fun i _ hi => ?_
  obtain rfl | rfl : i = 0 ∨ i = 1 := by
    simp only [List.length_cons, List.length_nil] at hi
    omega
  · simp
  · simp

/-- Settles O55: the output invariant for the record and the transmit frame, the reader's for the finished frame. -/
theorem validOutputsDescribeTheFrame : Obligations.ValidOutputsDescribeTheFrame := by
  intro s hreader hout
  refine ⟨fun r hr => ?_, fun f hf => ?_, fun f hf => ?_⟩
  · obtain ⟨hvalid, rfl⟩ := validTelemetry_eq_some.mp hr
    obtain ⟨hp, hl, hparse, -⟩ := hout.tlm_valid hvalid
    exact ⟨finishedFrame_eq_some.mpr ⟨hp, by simp [hl]⟩, hparse⟩
  · obtain ⟨hp, rfl⟩ := finishedFrame_eq_some.mp hf
    obtain ⟨-, h0, h1⟩ := hreader.finished hp
    obtain ⟨hmin, hmax⟩ := hreader.length (by simp [hp])
    refine ⟨by simpa using hmax, ?_⟩
    rw [take_two_of_buf _ (by omega), h0, h1]
    rfl
  · obtain ⟨hvalid, rfl⟩ := validTxFrame_eq_some.mp hf
    obtain ⟨opc, data, h⟩ := hout.txf_valid hvalid
    exact ⟨opc, data, by rw [h]⟩

/-! ### What each command writes (R35) -/

/-- Consuming retry writes PHASE, RETRY and RESULT only. -/
theorem consumeRetry_writes (s : State) :
    ∃ p r e, consumeRetry s = { s with phase := p, retry := r, result := e } := by
  rcases consumeRetry_cases s with ⟨-, h⟩ | ⟨-, h⟩
  · exact ⟨_, _, _, h⟩
  · exact ⟨_, _, _, h⟩

/-- A read outcome writes PHASE, CURSOR, RETRY, BUF and RESULT only. -/
theorem readerStep_writes (h1 h2 : Byte) (o : ReadOutcome) (s : State) :
    ∃ p c r b e, readerStep h1 h2 o s = { s with phase := p, cursor := c, retry := r, buf := b, result := e } := by
  rcases readerStep_cases h1 h2 o s with ⟨-, h⟩ | ⟨-, -, h⟩ | ⟨-, -, h⟩ | ⟨-, -, h⟩ | ⟨-, -, h⟩ | ⟨-, _, -, h⟩
  case inr.inl =>
    obtain ⟨_, _, _, e⟩ := consumeRetry_writes s
    exact ⟨_, _, _, _, _, h.trans e⟩
  all_goals exact ⟨_, _, _, _, _, h⟩

/-- A stall writes PHASE, RETRY and RESULT only. -/
theorem readerStep_stall_writes (h1 h2 : Byte) {o : ReadOutcome} (ho : o = .notReady ∨ o = .fault) (s : State) :
    ∃ p r e, readerStep h1 h2 o s = { s with phase := p, retry := r, result := e } := by
  cases ha : s.phase.isActive with
  | false => exact ⟨_, _, _, readerStep_inactive h1 h2 o ha⟩
  | true =>
    obtain ⟨p, r, e, h⟩ := consumeRetry_writes s
    exact ⟨p, r, e, (readerStep_stall h1 h2 ha ho).trans h⟩

/-- PARSE writes the record, TLM_VALID, CSUM_CALC and RESULT only. -/
theorem exec_parse_writes (s : State) :
    ∃ r v c e, exec .parse s = .next { s with tlm := r, tlmValid := v, csumCalc := c, result := e } := by
  rcases exec_parse_cases s with ⟨-, h⟩ | ⟨-, h⟩
  · rcases parseFrame_cases s with ⟨-, -, e⟩ | ⟨-, -, e⟩
    · exact ⟨_, _, _, _, h.trans (congrArg _ e)⟩
    · exact ⟨_, _, _, _, h.trans (congrArg _ e)⟩
  · exact ⟨_, _, _, _, h⟩

/-- ACKCMP writes ACK_MATCH and RESULT only. -/
theorem exec_ackcmp_writes (sel : AckSel) (s : State) :
    ∃ m e, exec (.ackcmp sel) s = .next { s with ackMatch := m, result := e } := by
  rcases exec_ackcmp_cases sel s with ⟨-, h⟩ | ⟨-, h⟩
  · rcases compareAck_cases sel s with ⟨-, e⟩ | ⟨-, e⟩
    · exact ⟨_, _, h.trans (congrArg _ e)⟩
    · exact ⟨_, _, h.trans (congrArg _ e)⟩
  · exact ⟨_, _, h⟩

/-- A write to RESULT shows at no other register. -/
theorem view_result_ne (s : State) (e : ResultCode) {r : Reg} (hr : r ≠ .result) :
    State.view { s with result := e } r = s.view r := by
  cases r with
  | result => exact absurd rfl hr
  | _ => rfl

/-- A stall's writes show at no register that R35 does not list for FEEDN. -/
theorem view_of_stall_writes (s : State) (p : Phase) (c : Half) (e : ResultCode) {r : Reg}
    (hr : mayWrite .feedn r = false) : State.view { s with phase := p, retry := c, result := e } r = s.view r := by
  cases r with
  | phase | retry | result => cases hr
  | _ => rfl

/-- R35 lists the same registers for FEEDF as for FEEDN. -/
theorem mayWrite_feedf (r : Reg) : mayWrite .feedf r = mayWrite .feedn r := by
  cases r <;> rfl

/-- The frame of every command: a register that R35 does not list for it reads as before. -/
theorem exec_frame {i : Instr} {r : Reg} (h : exec i s = .next t) (hr : mayWrite i r = false) :
    t.view r = s.view r := by
  cases i with
  | rdstart l b =>
    cases h
    cases r with
    | txf | txfValid => rfl
    | _ => cases hr
  | feedb b =>
    obtain ⟨_, _, _, _, _, e⟩ := readerStep_writes Config.hdr1 Config.hdr2 (.byte b) s
    cases h.symm.trans (congrArg Host.Outcome.next e)
    cases r with
    | phase | cursor | retry | buf | result => cases hr
    | _ => rfl
  | feedn =>
    obtain ⟨_, _, _, e⟩ := readerStep_stall_writes Config.hdr1 Config.hdr2 (.inl rfl) s
    cases h.symm.trans (congrArg Host.Outcome.next e)
    exact view_of_stall_writes _ _ _ _ hr
  | feedf =>
    obtain ⟨_, _, _, e⟩ := readerStep_stall_writes Config.hdr1 Config.hdr2 (.inr rfl) s
    cases h.symm.trans (congrArg Host.Outcome.next e)
    exact view_of_stall_writes _ _ _ _ (mayWrite_feedf r ▸ hr)
  | encode o d =>
    cases h
    cases r with
    | txf | txfValid | result => cases hr
    | _ => rfl
  | parse =>
    obtain ⟨_, _, _, _, e⟩ := exec_parse_writes s
    cases h.symm.trans e
    cases r with
    | tlmValid | tHdr1 | tHdr2 | tFlen | tM | tRsvd | tCsum | csumCalc | result => cases hr
    | _ => rfl
  | ackcmp sel =>
    obtain ⟨_, _, e⟩ := exec_ackcmp_writes sel s
    cases h.symm.trans e
    cases r with
    | ackMatch | result => cases hr
    | _ => rfl

/-- FEEDB writes at most BUF[0] and BUF[1] at the header match, or BUF[CURSOR] (R90, R92). -/
theorem readerStep_buf_ne (h1 h2 : Byte) (o : ReadOutcome) {j : Nat} (hj : j < 32)
    (h : (readerStep h1 h2 o s).buf[j] ≠ s.buf[j]) :
    s.phase = .awaitingHeader2 ∧ j < 2 ∨ s.phase = .collecting ∧ j = s.cursor.toNat := by
  rcases readerStep_cases h1 h2 o s with
    ⟨-, e⟩ | ⟨-, -, e⟩ | ⟨-, -, e⟩ | ⟨hp, -, e⟩ | ⟨-, -, e⟩ | ⟨hp, b, -, e⟩ <;> simp only [e] at h
  case inr.inl =>
    obtain ⟨_, _, _, e'⟩ := consumeRetry_writes s
    simp [e'] at h
  case inr.inr.inr.inl =>
    refine .inl ⟨hp, ?_⟩
    by_contra hge
    rw [Vector.getElem_set_ne (h := by omega), Vector.getElem_set_ne (h := by omega)] at h
    exact h rfl
  case inr.inr.inr.inr.inr =>
    refine .inr ⟨hp, ?_⟩
    by_contra hne
    rw [memWrite8_getElem, if_neg (Ne.symm hne)] at h
    exact h rfl
  all_goals exact absurd rfl h

/-- Settles O36: the frame of every command, the bytes FEEDB writes, R93, and an illegal word (R126). -/
theorem eachCommandWritesOnlyItsRegisters : Obligations.EachCommandWritesOnlyItsRegisters := by
  refine ⟨fun i s t h => ⟨?_, fun r hr => exec_frame h hr⟩, fun b s t j h hj => ?_, fun o s t hp h => ?_,
    fun w e s t r hw h hr => ?_⟩
  · obtain ⟨u, hexec, hport⟩ := exec_next i s
    cases h.symm.trans hexec
    exact hport
  · cases h
    exact readerStep_buf_ne _ _ _ j.isLt hj
  · cases h.symm.trans (exec_feedInstr o s)
    exact readerStep_inactive _ _ _ hp
  · cases h.symm.trans (runWord_error hw s)
    exact view_result_ne s _ hr

/-! ### The transmit frame (R30) -/

/-- Only ENCODE may write the transmit frame. -/
theorem mayWrite_txf {i : Instr} (hi : ∀ o d, i ≠ .encode o d) :
    (∀ j, mayWrite i (.txf j) = false) ∧ mayWrite i .txfValid = false := by
  cases i with
  | encode o d => exact absurd rfl (hi o d)
  | _ => exact ⟨fun _ => rfl, rfl⟩

/-- Every command but ENCODE leaves TXF and TXF_VALID. -/
theorem exec_txf {i : Instr} (h : exec i s = .next t) (hi : ∀ o d, i ≠ .encode o d) :
    t.txf = s.txf ∧ t.txfValid = s.txfValid := by
  obtain ⟨htxf, hvalid⟩ := mayWrite_txf hi
  exact ⟨Vector.ext fun j hj => exec_frame h (htxf ⟨j, hj⟩), bitOf_inj (exec_frame h hvalid)⟩

/-- Settles O35: a step that is no reset and runs no ENCODE leaves the transmit frame, and the word that decodes to an
ENCODE is that command's. -/
theorem onlyEncodeAndResetWriteTheTransmitFrame : Obligations.OnlyEncodeAndResetWriteTheTransmitFrame := by
  intro s t hstep hchange
  rcases step_cases s with
    ⟨-, e⟩ | ⟨c, rest, hport, -⟩ | ⟨w, i, rest, hport, hdecode, e⟩ | ⟨w, r, rest, -, -, e⟩
  · cases hstep.symm.trans e
    simp at hchange
  · exact .inr ⟨c, rest, hport⟩
  · by_cases hi : ∃ o d, i = .encode o d
    · obtain ⟨o, d, rfl⟩ := hi
      exact .inl ⟨o, d, rest, by rw [encode_of_decode_eq_encode hdecode, hport]⟩
    · obtain ⟨htxf, hvalid⟩ := exec_txf (e.symm.trans hstep) (by simpa using hi)
      simp [htxf, hvalid] at hchange
  · cases hstep.symm.trans e
    simp at hchange

/-! ### LEN and CURSOR stay in range (R23, R24) -/

/-- In Collecting CURSOR is below LEN, so the byte raises it by one without wrapping. -/
theorem ReaderInv.cursor_succ (h : ReaderInv s) (hp : s.phase = .collecting) :
    (s.cursor + 1#6).toNat = s.cursor.toNat + 1 := by
  obtain ⟨-, hlt, -, -⟩ := h.collecting hp
  have hlen := h.len_range
  rw [BitVec.toNat_add, BitVec.toNat_ofNat]
  omega

theorem ReaderInv.readerStep_cursor_le (h : ReaderInv s) (h1 h2 : Byte) (o : ReadOutcome) :
    (readerStep h1 h2 o s).cursor.toNat ≤ 32 := by
  have hcursor := h.cursor_range
  rcases readerStep_cases h1 h2 o s with
    ⟨-, e⟩ | ⟨-, -, e⟩ | ⟨-, -, e⟩ | ⟨-, -, e⟩ | ⟨-, -, e⟩ | ⟨hp, b, -, e⟩ <;> simp only [e]
  case inr.inl =>
    obtain ⟨_, _, _, e'⟩ := consumeRetry_writes s
    simpa only [e'] using hcursor
  case inr.inr.inr.inl => decide
  case inr.inr.inr.inr.inr =>
    obtain ⟨-, hlt, -, -⟩ := h.collecting hp
    have hlen := h.len_range
    rw [h.cursor_succ hp]
    omega
  all_goals exact hcursor

/-- A length a word can give is taken whole into LEN (R68). -/
theorem lenOperand_toNat {l : Byte} (h : l.toNat ≤ 32) : (lenOperand l).toNat = l.toNat := by
  simp only [lenOperand, BitVec.extractLsb'_toNat, Nat.shiftRight_zero]
  omega

/-- Only RDSTART, which clears it, and FEEDB write CURSOR. -/
theorem ReaderInv.exec_cursor_le (hs : ReaderInv s) {i : Instr} (h : exec i s = .next t) : t.cursor.toNat ≤ 32 := by
  cases i with
  | rdstart l b =>
    cases h
    exact Nat.zero_le 32
  | feedb b => cases h; exact hs.readerStep_cursor_le _ _ _
  | _ => exact (congrArg BitVec.toNat (exec_frame (r := .cursor) h rfl)).trans_le hs.cursor_range

/-- Only RDSTART writes LEN, and the decoder admits no length above 32. -/
theorem ReaderInv.exec_len_le (hs : ReaderInv s) {w : Word} {i : Instr} (hw : decode w = .ok i)
    (h : exec i s = .next t) : t.len.toNat ≤ 32 := by
  cases i with
  | rdstart l b =>
    cases h
    have hl := (decode_eq_rdstart hw).2
    exact (lenOperand_toNat hl).trans_le hl
  | _ => exact (congrArg BitVec.toNat (exec_frame (r := .len) h rfl)).trans_le hs.len_range

/-- R36 says nothing of what the host presents. -/
theorem ReaderInv.with_port (h : ReaderInv s) (p : List PortInput) : ReaderInv { s with port := p } :=
  ⟨h.awaiting_cursor, h.collecting, h.finished, h.length, h.tail_zero, h.awaiting_zero, h.len_range, h.cursor_range⟩

theorem ReaderInv.step_range (hs : ReaderInv s) (h : step s = .next t) : t.len.toNat ≤ 32 ∧ t.cursor.toNat ≤ 32 := by
  rcases step_cases s with ⟨-, e⟩ | ⟨c, rest, -, e⟩ | ⟨w, i, rest, -, hw, e⟩ | ⟨w, r, rest, -, -, e⟩
  case inr.inr.inl =>
    have hexec := e.symm.trans h
    exact ⟨(hs.with_port rest).exec_len_le hw hexec, (hs.with_port rest).exec_cursor_le hexec⟩
  all_goals cases h.symm.trans e
  · exact ⟨hs.len_range, hs.cursor_range⟩
  · simp
  · exact ⟨hs.len_range, hs.cursor_range⟩

/-- Settles O37: BUF[0] and BUF[1] lie below LEN because LEN is at least 3 in a read, BUF[CURSOR] because CURSOR is below
LEN in Collecting. -/
theorem bufferWritesStayBelowLength : Obligations.BufferWritesStayBelowLength := by
  refine ⟨fun b s t hs h => ?_, fun s t hs h => ⟨hs.len_range, hs.cursor_range, hs.step_range h⟩⟩
  cases h
  refine ⟨fun j hj => ?_, fun hp => ?_⟩
  · rcases readerStep_buf_ne _ _ _ j.isLt hj with ⟨hp, hlt⟩ | ⟨hp, heq⟩
    · obtain ⟨hmin, -⟩ := hs.length (by simp [hp])
      omega
    · obtain ⟨-, hlt, -, -⟩ := hs.collecting hp
      omega
  · rw [feedOutcome, readerStep_collecting _ _ _ hp]
    exact hs.cursor_succ hp

/-! ### The output view (R34, R37) -/

theorem telemetry_eq_of_fields {r q : Telemetry} (h₁ : r.hdr1 = q.hdr1) (h₂ : r.hdr2 = q.hdr2) (h₃ : r.flen = q.flen)
    (h₄ : r.m = q.m) (h₅ : r.rsvd = q.rsvd) (h₆ : r.csum = q.csum) : r = q := by
  cases r; cases q; simp_all

/-- The record is what its 17 field registers show. -/
theorem tlm_eq_of_view (h : ∀ r, s.view r = t.view r) : s.tlm = t.tlm :=
  telemetry_eq_of_fields (h .tHdr1) (h .tHdr2) (h .tFlen) (Vector.ext fun k hk => h (.tM ⟨k, hk⟩)) (h .tRsvd) (h .tCsum)

/-- Settles O53: each register determines its field, the codes being injective; and the view does not show the port. -/
theorem viewShowsExactlyTheRegisters : Obligations.ViewShowsExactlyTheRegisters := by
  refine fun s t => ⟨fun h => ?_, fun h r => ?_⟩
  · have hbuf : s.buf = t.buf := Vector.ext fun i hi => h (.buf ⟨i, hi⟩)
    have htxf : s.txf = t.txf := Vector.ext fun i hi => h (.txf ⟨i, hi⟩)
    exact state_eq_of_fields (phaseCode_inj (h .phase)) (h .len) (h .cursor) (h .retry) hbuf
      (resultCode_inj (h .result)) (bitOf_inj (h .tlmValid)) (tlm_eq_of_view h) (h .csumCalc) htxf
      (bitOf_inj (h .txfValid)) (bitOf_inj (h .ackMatch)) rfl
  · rw [← view_port s [], ← view_port t [], h]

/-! ### No hidden state (R37) -/

/-- States with the same registers differ in what the host presents only. -/
theorem sameRegisters_eq (h : sameRegisters s t) (p : List PortInput) :
    { s with port := p } = { t with port := p } :=
  congrArg (fun u : State => { u with port := p }) h

/-- What the host presents later passes through an input. -/
theorem runInput_port (i : PortInput) (s : State) (p : List PortInput) :
    ∃ t, runInput i s = .next t ∧ runInput i { s with port := p } = .next { t with port := p } := by
  cases i with
  | rst c => exact ⟨_, rfl, rfl⟩
  | command w =>
    cases hw : decode w with
    | ok i => simpa only [runInput, runWord_ok hw] using exec_port i s p
    | error e => exact ⟨_, runWord_error hw s, runWord_error hw _⟩

theorem step_cons {i : PortInput} {rest : List PortInput} (h : s.port = i :: rest) :
    step s = runInput i { s with port := rest } := by
  simp only [step, cycle, nextInput_cons h]

/-- Settles O54: the states differ in their later inputs only, and these pass through the step. -/
theorem registersDetermineTheNextRegisters : Obligations.RegistersDetermineTheNextRegisters := by
  intro s s' t t' hsame hhead hstep hstep'
  cases hport : s.port with
  | nil =>
    have hport' : s'.port = [] := by simpa [hport] using hhead.symm
    cases hstep.symm.trans (step_idle_port hport)
    cases hstep'.symm.trans (step_idle_port hport')
    exact hsame
  | cons i rest =>
    obtain ⟨rest', hport'⟩ : ∃ rest', s'.port = i :: rest' := by
      simpa [hport, List.head?_eq_some_iff] using hhead.symm
    obtain ⟨u, hu, hu'⟩ := runInput_port i { s with port := rest } rest'
    cases hstep.symm.trans ((step_cons hport).trans hu)
    rw [step_cons hport', ← sameRegisters_eq hsame rest'] at hstep'
    cases hstep'.symm.trans hu'
    rfl

end Sys2Proof.Machine

/-! PROOFS. The command words: encoding and decoding, the match and mask table, the illegal words, the wire frames and
the host assembly (30_encoding.md R60 to R81). -/

namespace Sys2Proof

variable {w : Word} {i : Instr}

/-! ### The fields of a legal word (30_encoding.md R63 to R69) -/

/-- The word has the fields that R63 to R67 give the command: its OP, reserved bits 0, its operands, and RDSTART's
length in range. -/
def HasFieldsOf (w : Word) : Instr → Prop
  | .rdstart l b =>
    fieldOp w = 0x1#4 ∧ fieldReserved4 w = 0#4 ∧ wellFormed (.rdstart l b) = true ∧
      fieldByteHigh w = l ∧ fieldHalf w = b
  | .feedb b => fieldOp w = 0x2#4 ∧ fieldReserved18 w = 0#18 ∧ fieldKind w = 0#2 ∧ fieldByte w = b
  | .feedn => fieldOp w = 0x2#4 ∧ fieldReserved18 w = 0#18 ∧ fieldKind w = 1#2 ∧ fieldByte w = 0#8
  | .feedf => fieldOp w = 0x2#4 ∧ fieldReserved18 w = 0#18 ∧ fieldKind w = 2#2 ∧ fieldByte w = 0#8
  | .encode o d => fieldOp w = 0x3#4 ∧ fieldReserved4 w = 0#4 ∧ fieldByteHigh w = o ∧ fieldHalf w = d
  | .parse => fieldOp w = 0x4#4 ∧ fieldReserved28 w = 0#28
  | .ackcmp sel => fieldOp w = 0x5#4 ∧ fieldReserved26 w = 0#26 ∧ fieldSel w = selCode sel

theorem wellFormed_rdstart_iff {l : Byte} {b : Half} :
    wellFormed (.rdstart l b) = true ↔ Config.lenMin ≤ l.toNat ∧ l.toNat ≤ Config.maxLen := by
  simp [wellFormed]

theorem hasFieldsOf_of_decodeRdstart (hop : fieldOp w = 0x1#4) (h : decodeRdstart w = .ok i) : HasFieldsOf w i := by
  unfold decodeRdstart at h
  split_ifs at h with hres hlen
  cases h
  exact ⟨hop, hres, wellFormed_rdstart_iff.mpr hlen, rfl, rfl⟩

theorem hasFieldsOf_of_decodeFeed (hop : fieldOp w = 0x2#4) (h : decodeFeed w = .ok i) : HasFieldsOf w i := by
  unfold decodeFeed at h
  split_ifs at h with hres h0 h1 hb h2 hb <;> cases h
  · exact ⟨hop, hres, h0, rfl⟩
  · exact ⟨hop, hres, h1, hb⟩
  · exact ⟨hop, hres, h2, hb⟩

theorem hasFieldsOf_of_decodeEncode (hop : fieldOp w = 0x3#4) (h : decodeEncode w = .ok i) : HasFieldsOf w i := by
  unfold decodeEncode at h
  split_ifs at h with hres
  cases h
  exact ⟨hop, hres, rfl, rfl⟩

theorem hasFieldsOf_of_decodeParse (hop : fieldOp w = 0x4#4) (h : decodeParse w = .ok i) : HasFieldsOf w i := by
  unfold decodeParse at h
  split_ifs at h with hres
  cases h
  exact ⟨hop, hres⟩

theorem hasFieldsOf_of_decodeAckcmp (hop : fieldOp w = 0x5#4) (h : decodeAckcmp w = .ok i) : HasFieldsOf w i := by
  unfold decodeAckcmp at h
  split_ifs at h with hres h0 h1 h2 <;> cases h
  · exact ⟨hop, hres, h0⟩
  · exact ⟨hop, hres, h1⟩
  · exact ⟨hop, hres, h2⟩

/-- A word that decodes has the fields of the command it decodes to. -/
theorem hasFieldsOf_of_decode (h : decode w = .ok i) : HasFieldsOf w i := by
  unfold decode at h
  split_ifs at h with h1 h2 h3 h4 h5
  · exact hasFieldsOf_of_decodeRdstart h1 h
  · exact hasFieldsOf_of_decodeFeed h2 h
  · exact hasFieldsOf_of_decodeEncode h3 h
  · exact hasFieldsOf_of_decodeParse h4 h
  · exact hasFieldsOf_of_decodeAckcmp h5 h

/-! ### A word is its fields put together again (R61) -/

theorem feed_fields (w : Word) : fieldOp w ++ fieldReserved18 w ++ fieldKind w ++ fieldByte w = w := by
  rw [fieldOp, fieldReserved18, fieldKind, fieldByte, BitVec.extractLsb'_append_extractLsb'_eq_extractLsb' (by rfl),
    BitVec.extractLsb'_append_extractLsb'_eq_extractLsb' (by rfl),
    BitVec.extractLsb'_append_extractLsb'_eq_extractLsb' (by rfl), BitVec.extractLsb'_eq_self]

theorem parse_fields (w : Word) : fieldOp w ++ fieldReserved28 w = w := by
  rw [fieldOp, fieldReserved28, BitVec.extractLsb'_append_extractLsb'_eq_extractLsb' (by rfl),
    BitVec.extractLsb'_eq_self]

theorem ackcmp_fields (w : Word) : fieldOp w ++ fieldReserved26 w ++ fieldSel w = w := by
  rw [fieldOp, fieldReserved26, fieldSel, BitVec.extractLsb'_append_extractLsb'_eq_extractLsb' (by rfl),
    BitVec.extractLsb'_append_extractLsb'_eq_extractLsb' (by rfl), BitVec.extractLsb'_eq_self]

/-- The fields of a command are all of its word: no bit is left over (R72). -/
theorem HasFieldsOf.encode_eq (h : HasFieldsOf w i) : encode i = w := by
  cases i with
  | rdstart l b =>
    obtain ⟨hop, hres, -, rfl, rfl⟩ := h
    rw [encode, ← hop, ← hres, byteHalf_fields]
  | feedb b =>
    obtain ⟨hop, hres, hkind, rfl⟩ := h
    rw [encode, encodeFeed, ← hop, ← hres, ← hkind, feed_fields]
  | feedn =>
    obtain ⟨hop, hres, hkind, hbyte⟩ := h
    rw [encode, encodeFeed, ← hop, ← hres, ← hkind, ← hbyte, feed_fields]
  | feedf =>
    obtain ⟨hop, hres, hkind, hbyte⟩ := h
    rw [encode, encodeFeed, ← hop, ← hres, ← hkind, ← hbyte, feed_fields]
  | encode o d =>
    obtain ⟨hop, hres, rfl, rfl⟩ := h
    rw [encode, ← hop, ← hres, byteHalf_fields]
  | parse =>
    obtain ⟨hop, hres⟩ := h
    rw [encode, ← hop, ← hres, parse_fields]
  | ackcmp sel =>
    obtain ⟨hop, hres, hsel⟩ := h
    rw [encode, ← hop, ← hres, ← hsel, ackcmp_fields]

/-- Only RDSTART has a check beyond its fields' widths (R63, R71). -/
theorem HasFieldsOf.wellFormed (h : HasFieldsOf w i) : wellFormed i = true := by
  cases i with
  | rdstart l b =>
    obtain ⟨-, -, hlen, -⟩ := h
    exact hlen
  | _ => rfl

/-- The legal words are those with the fields of a command (R69). -/
theorem decode_eq_ok_iff_hasFieldsOf : decode w = .ok i ↔ HasFieldsOf w i := by
  refine ⟨hasFieldsOf_of_decode, fun h => ?_⟩
  rw [← h.encode_eq]
  exact decode_encode h.wellFormed

/-- The legal words are the encodings of the well-formed commands (R69, R72). -/
theorem decode_eq_ok_iff_encode_eq : decode w = .ok i ↔ wellFormed i = true ∧ encode i = w := by
  constructor
  · intro h
    have hf := hasFieldsOf_of_decode h
    exact ⟨hf.wellFormed, hf.encode_eq⟩
  · rintro ⟨hwf, rfl⟩
    exact decode_encode hwf

/-- Settles O2, by the command: each format's fields read back what its encoding put there. -/
theorem decodeOfEncodeIsTheCommand : Obligations.DecodeOfEncodeIsTheCommand :=
  fun _ hwf => decode_encode hwf

/-- Settles O3: the word has the command's fields, and they are all of its bits. -/
theorem decodedWordIsTheCommandsEncoding : Obligations.DecodedWordIsTheCommandsEncoding :=
  fun _ _ h => decode_eq_ok_iff_encode_eq.mp h

/-- Settles O1, by evaluating the decoder on the words of 95_test_vectors.md 2.1. -/
theorem decodeReadsTheSpecsWords : Obligations.DecodeReadsTheSpecsWords := by
  unfold Obligations.DecodeReadsTheSpecsWords
  decide

/-! ### The match and mask table (R70) -/

/-- The rows of RDSTART and ENCODE: OP, and bits 27:24 zero. -/
theorem and_byteHalfMask_eq (w : Word) (op : BitVec 4) :
    w &&& 0xFF000000 = op ++ 0#28 ↔ fieldOp w = op ∧ fieldReserved4 w = 0#4 := by
  have hw := w.isLt
  have hop := op.isLt
  have hp : (op ++ 0#28 : Word).toNat = op.toNat * 2 ^ 28 := by
    rw [BitVec.toNat_append, BitVec.toNat_ofNat, Nat.zero_mod, Nat.or_zero, Nat.shiftLeft_eq]
  rw [and_highMask_eq w _ _ 24 (by decide) (by omega), hp, ← BitVec.toNat_inj, ← BitVec.toNat_inj, fieldOp,
    fieldReserved4, field_toNat, field_toNat, BitVec.toNat_ofNat]
  omega

/-- FEEDB's row: OP, the reserved bits and KIND. -/
theorem and_feedbMask_eq (w : Word) :
    w &&& 0xFFFFFF00 = 0x20000000 ↔ fieldOp w = 0x2#4 ∧ fieldReserved18 w = 0#18 ∧ fieldKind w = 0#2 := by
  have hw := w.isLt
  have hp : (0x20000000 : Word).toNat = 0x20000000 := rfl
  rw [and_highMask_eq w _ _ 8 (by decide) (by decide), hp, ← BitVec.toNat_inj, ← BitVec.toNat_inj,
    ← BitVec.toNat_inj, fieldOp, fieldReserved18, fieldKind, field_toNat, field_toNat, field_toNat]
  simp only [BitVec.toNat_ofNat]
  omega

/-- ACKCMP's row: OP and the reserved bits. -/
theorem and_ackcmpMask_eq (w : Word) :
    w &&& 0xFFFFFFFC = 0x50000000 ↔ fieldOp w = 0x5#4 ∧ fieldReserved26 w = 0#26 := by
  have hw := w.isLt
  have hp : (0x50000000 : Word).toNat = 0x50000000 := rfl
  rw [and_highMask_eq w _ _ 2 (by decide) (by decide), hp, ← BitVec.toNat_inj, ← BitVec.toNat_inj, fieldOp,
    fieldReserved26, field_toNat, field_toNat]
  simp only [BitVec.toNat_ofNat]
  omega

/-- Every selector code but 3 has an acknowledgement (R67). -/
theorem exists_selCode_eq_iff (c : BitVec 2) : (∃ sel, c = selCode sel) ↔ c ≠ 3 := by
  constructor
  · rintro ⟨sel, rfl⟩
    cases sel <;> decide
  · intro hc
    have hcases : c = 0#2 ∨ c = 1#2 ∨ c = 2#2 := by
      revert c
      decide
    rcases hcases with rfl | rfl | rfl
    · exact ⟨.passive, rfl⟩
    · exact ⟨.active, rfl⟩
    · exact ⟨.sleep, rfl⟩

theorem and_fullMask_eq (w p : Word) : w &&& 0xFFFFFFFF = p ↔ w = p := by
  rw [show (0xFFFFFFFF : Word) = BitVec.allOnes 32 by decide, BitVec.and_allOnes]

theorem rowMatches_iff {r : TableRow} :
    rowMatches w r = true ↔ w &&& r.mask = r.pattern ∧ extraHolds r.extra w = true := by
  simp [rowMatches]

theorem extraHolds_selectorIllegal_iff :
    extraHolds (some .selectorIllegal) w = true ↔ ∃ sel, fieldSel w = selCode sel := by
  simp [extraHolds, exists_selCode_eq_iff]

/-- The command's row of R70. -/
def rowOf : Instr → TableRow
  | .rdstart _ _ => matchTable[0]'(by decide)
  | .feedb _ => matchTable[1]'(by decide)
  | .feedn => matchTable[2]'(by decide)
  | .feedf => matchTable[3]'(by decide)
  | .encode _ _ => matchTable[4]'(by decide)
  | .parse => matchTable[5]'(by decide)
  | .ackcmp _ => matchTable[6]'(by decide)

/-- A word with a command's fields matches the command's row. -/
theorem HasFieldsOf.rowMatches_rowOf (h : HasFieldsOf w i) : rowMatches w (rowOf i) = true := by
  rw [rowMatches_iff]
  cases i with
  | rdstart l b =>
    obtain ⟨hop, hres, hlen, rfl, rfl⟩ := h
    exact ⟨(and_byteHalfMask_eq w 0x1#4).mpr ⟨hop, hres⟩, hlen⟩
  | feedb b =>
    obtain ⟨hop, hres, hkind, -⟩ := h
    exact ⟨(and_feedbMask_eq w).mpr ⟨hop, hres, hkind⟩, rfl⟩
  | feedn => exact ⟨(and_fullMask_eq w _).mpr h.encode_eq.symm, rfl⟩
  | feedf => exact ⟨(and_fullMask_eq w _).mpr h.encode_eq.symm, rfl⟩
  | encode o d =>
    obtain ⟨hop, hres, -⟩ := h
    exact ⟨(and_byteHalfMask_eq w 0x3#4).mpr ⟨hop, hres⟩, rfl⟩
  | parse => exact ⟨(and_fullMask_eq w _).mpr h.encode_eq.symm, rfl⟩
  | ackcmp sel =>
    obtain ⟨hop, hres, hsel⟩ := h
    exact ⟨(and_ackcmpMask_eq w).mpr ⟨hop, hres⟩, extraHolds_selectorIllegal_iff.mpr ⟨sel, hsel⟩⟩

/-- A word that matches a row has the fields of a command of that row. -/
theorem exists_hasFieldsOf_of_rowMatches {r : TableRow} (hr : r ∈ matchTable) (h : rowMatches w r = true) :
    ∃ i, HasFieldsOf w i ∧ rowOf i = r := by
  obtain ⟨hmask, hextra⟩ := rowMatches_iff.mp h
  simp only [matchTable, List.mem_cons, List.not_mem_nil, or_false] at hr
  rcases hr with rfl | rfl | rfl | rfl | rfl | rfl | rfl
  · obtain ⟨hop, hres⟩ := (and_byteHalfMask_eq w 0x1#4).mp hmask
    exact ⟨.rdstart _ _, ⟨hop, hres, hextra, rfl, rfl⟩, rfl⟩
  · obtain ⟨hop, hres, hkind⟩ := (and_feedbMask_eq w).mp hmask
    exact ⟨.feedb _, ⟨hop, hres, hkind, rfl⟩, rfl⟩
  · obtain rfl := (and_fullMask_eq w _).mp hmask
    exact ⟨.feedn, hasFieldsOf_of_decode (by decide), rfl⟩
  · obtain rfl := (and_fullMask_eq w _).mp hmask
    exact ⟨.feedf, hasFieldsOf_of_decode (by decide), rfl⟩
  · obtain ⟨hop, hres⟩ := (and_byteHalfMask_eq w 0x3#4).mp hmask
    exact ⟨.encode _ _, ⟨hop, hres, rfl, rfl⟩, rfl⟩
  · obtain rfl := (and_fullMask_eq w _).mp hmask
    exact ⟨.parse, hasFieldsOf_of_decode (by decide), rfl⟩
  · obtain ⟨hop, hres⟩ := (and_ackcmpMask_eq w).mp hmask
    obtain ⟨sel, hsel⟩ := extraHolds_selectorIllegal_iff.mp hextra
    exact ⟨.ackcmp sel, ⟨hop, hres, hsel⟩, rfl⟩

/-- A row matches a word exactly when the word decodes to a command of that row. -/
theorem rowMatches_iff_decode {r : TableRow} (hr : r ∈ matchTable) :
    rowMatches w r = true ↔ ∃ i, decode w = .ok i ∧ rowOf i = r := by
  simp only [decode_eq_ok_iff_hasFieldsOf]
  constructor
  · exact exists_hasFieldsOf_of_rowMatches hr
  · rintro ⟨i, hi, rfl⟩
    exact hi.rowMatches_rowOf

theorem filter_rowOf_mnemonic (i : Instr) :
    (matchTable.filter fun r => decide (rowOf i = r)).map (fun r => r.mnemonic) = [mnemonic i] := by
  cases i <;> rfl

/-- The rows that match are the row of the decoded command, and none where the word is illegal. -/
theorem filter_rowMatches_mnemonic (w : Word) :
    (matchTable.filter (rowMatches w)).map (fun r => r.mnemonic) =
      match decode w with
      | .ok i => [mnemonic i]
      | .error _ => [] := by
  cases hw : decode w with
  | ok i =>
    have hrows : matchTable.filter (rowMatches w) = matchTable.filter fun r => decide (rowOf i = r) :=
      List.filter_congr fun r hr => by
        rw [Bool.eq_iff_iff, rowMatches_iff_decode hr, hw]
        simp
    rw [hrows, filter_rowOf_mnemonic]
  | error e =>
    have hnone : matchTable.filter (rowMatches w) = [] :=
      List.filter_eq_nil_iff.mpr fun r hr => by
        rw [rowMatches_iff_decode hr, hw]
        simp
    rw [hnone, List.map_nil]

/-- Settles O4: the rows and their extra conditions are read off the table, and a row matches exactly the words that
decode to a command of that row. -/
theorem matchMaskTableIsTheDecoder : Obligations.MatchMaskTableIsTheDecoder := by
  refine ⟨rfl, fun r hr w => ?_, filter_rowMatches_mnemonic⟩
  simp only [matchTable, List.mem_cons, List.not_mem_nil, or_false] at hr
  rcases hr with rfl | rfl | rfl | rfl | rfl | rfl | rfl <;> rfl

/-! ### The illegal words (R71) -/

theorem exists_ok_eq_error_iff {i : Instr} : (∃ e, (.ok i : Except Reject Instr) = .error e) ↔ False := by simp

theorem exists_error_eq_error_iff {r : Reject} : (∃ e, (.error r : Except Reject Instr) = .error e) ↔ True := by
  simp

/-- A check refuses a word where the branch it takes does. -/
theorem exists_ite_eq_error_iff {c : Prop} [Decidable c] {a b : Except Reject Instr} :
    (∃ e, (if c then a else b) = .error e) ↔ c ∧ (∃ e, a = .error e) ∨ ¬ c ∧ ∃ e, b = .error e := by
  by_cases hc : c <;> simp [hc]

theorem decodeRdstart_error_iff :
    (∃ e, decodeRdstart w = .error e) ↔
      (fieldReserved4 w).toNat ≠ 0 ∨ (fieldByteHigh w).toNat < 3 ∨ 32 < (fieldByteHigh w).toNat := by
  simp only [decodeRdstart, exists_ite_eq_error_iff, exists_ok_eq_error_iff, exists_error_eq_error_iff,
    and_true, and_false, false_or, ← BitVec.toNat_inj, BitVec.toNat_ofNat]
  simp only [Config.lenMin, Config.maxLen]
  omega

theorem decodeFeed_error_iff :
    (∃ e, decodeFeed w = .error e) ↔
      (fieldReserved18 w).toNat ≠ 0 ∨ (fieldKind w).toNat = 3 ∨
        ((fieldKind w).toNat = 1 ∨ (fieldKind w).toNat = 2) ∧ (fieldByte w).toNat ≠ 0 := by
  have hkind := (fieldKind w).isLt
  simp only [decodeFeed, exists_ite_eq_error_iff, exists_ok_eq_error_iff, exists_error_eq_error_iff,
    and_true, and_false, false_or, ← BitVec.toNat_inj, BitVec.toNat_ofNat]
  omega

theorem decodeEncode_error_iff : (∃ e, decodeEncode w = .error e) ↔ (fieldReserved4 w).toNat ≠ 0 := by
  simp only [decodeEncode, exists_ite_eq_error_iff, exists_ok_eq_error_iff, exists_error_eq_error_iff,
    and_true, and_false, false_or, ← BitVec.toNat_inj, BitVec.toNat_ofNat]

theorem decodeParse_error_iff : (∃ e, decodeParse w = .error e) ↔ (fieldReserved28 w).toNat ≠ 0 := by
  simp only [decodeParse, exists_ite_eq_error_iff, exists_ok_eq_error_iff, exists_error_eq_error_iff,
    and_true, and_false, false_or, ← BitVec.toNat_inj, BitVec.toNat_ofNat]

theorem decodeAckcmp_error_iff :
    (∃ e, decodeAckcmp w = .error e) ↔ (fieldReserved26 w).toNat ≠ 0 ∨ (fieldSel w).toNat = 3 := by
  have hsel := (fieldSel w).isLt
  simp only [decodeAckcmp, exists_ite_eq_error_iff, exists_ok_eq_error_iff, exists_error_eq_error_iff,
    and_true, and_false, false_or, ← BitVec.toNat_inj, BitVec.toNat_ofNat]
  omega

/-- The cases of R71, on the fields of the word. -/
theorem decode_error_iff :
    (∃ e, decode w = .error e) ↔
      ((fieldOp w).toNat = 0x0 ∨ 0x6 ≤ (fieldOp w).toNat) ∨
      (((fieldOp w).toNat = 0x1 ∨ (fieldOp w).toNat = 0x3) ∧ (fieldReserved4 w).toNat ≠ 0 ∨
        (fieldOp w).toNat = 0x2 ∧ (fieldReserved18 w).toNat ≠ 0 ∨
        (fieldOp w).toNat = 0x4 ∧ (fieldReserved28 w).toNat ≠ 0 ∨
        (fieldOp w).toNat = 0x5 ∧ (fieldReserved26 w).toNat ≠ 0) ∨
      ((fieldOp w).toNat = 0x1 ∧ ((fieldByteHigh w).toNat < 3 ∨ 32 < (fieldByteHigh w).toNat)) ∨
      ((fieldOp w).toNat = 0x2 ∧ (fieldKind w).toNat = 3) ∨
      ((fieldOp w).toNat = 0x2 ∧ ((fieldKind w).toNat = 1 ∨ (fieldKind w).toNat = 2) ∧
        (fieldByte w).toNat ≠ 0) ∨
      ((fieldOp w).toNat = 0x5 ∧ (fieldSel w).toNat = 3) := by
  unfold decode
  split_ifs with h1 h2 h3 h4 h5
  · simp [decodeRdstart_error_iff, h1]
  · simp [decodeFeed_error_iff, h2]
  · simp [decodeEncode_error_iff, h3]
  · simp [decodeParse_error_iff, h4]
  · simp [decodeAckcmp_error_iff, h5]
  · simp only [← BitVec.toNat_inj, BitVec.toNat_ofNat] at h1 h2 h3 h4 h5
    have hop : (fieldOp w).toNat = 0x0 ∨ 0x6 ≤ (fieldOp w).toNat := by omega
    exact iff_of_true ⟨_, rfl⟩ (.inl hop)

end Sys2Proof

namespace Sys2Proof.Machine

/-- Settles O5: the decoder refuses in R71's cases, and a refused word is taken as R126 says. -/
theorem illegalWordsAreExactlyTheListedOnes : Obligations.IllegalWordsAreExactlyTheListedOnes := by
  intro w s f illegal
  refine ⟨decode_error_iff, fun hillegal => ?_⟩
  obtain ⟨e, he⟩ := decode_error_iff.mpr hillegal
  exact runWord_error he s

/-! ### The telemetry frame (R78, R120) -/

section
variable (r : Telemetry)

/-- The first halfword of the layout is the two header bytes. -/
theorem telemetryLayout_header : (telemetryLayout r)[0] = r.hdr1 ∧ (telemetryLayout r)[1] = r.hdr2 := by
  simp [telemetryLayout]

theorem telemetryLayout_flen : memRead16 (telemetryLayout r) 2 = r.flen := by
  simp [telemetryLayout, memRead16]

theorem telemetryLayout_getElem_m {i : Nat} (hlo : 4 ≤ i) (hhi : i < 28) :
    (telemetryLayout r)[i] = if i % 2 = 0 then hiByte r.m[(i - 4) / 2] else loByte r.m[(i - 4) / 2] := by
  simp only [telemetryLayout, Vector.getElem_ofFn, if_neg (show ¬ i < 2 by omega), if_neg (show ¬ i < 4 by omega),
    dif_pos hhi]

/-- T_M[k + 1] is at index 4 + 2k (R78). -/
theorem telemetryLayout_m (k : Fin 12) : memRead16 (telemetryLayout r) (4 + 2 * k.val) (by omega) = r.m[k.val] := by
  have heven : (4 + 2 * k.val) % 2 = 0 := by omega
  have hodd : (4 + 2 * k.val + 1) % 2 ≠ 0 := by omega
  have hk : (4 + 2 * k.val - 4) / 2 = k.val := by omega
  have hk' : (4 + 2 * k.val + 1 - 4) / 2 = k.val := by omega
  rw [memRead16, telemetryLayout_getElem_m r (by omega) (by omega), telemetryLayout_getElem_m r (by omega) (by omega),
    if_pos heven, if_neg hodd]
  simp only [hk, hk', hiByte_append_loByte]

theorem telemetryLayout_rsvd : memRead16 (telemetryLayout r) 28 = r.rsvd := by
  simp [telemetryLayout, memRead16]

theorem telemetryLayout_csum : memRead16 (telemetryLayout r) 30 = r.csum := by
  simp [telemetryLayout, memRead16]

/-- Reading the fields of a laid-out record gives the record back (R120). -/
theorem telemetryFields_telemetryLayout : telemetryFields (telemetryLayout r) = r := by
  obtain ⟨h0, h1⟩ := telemetryLayout_header r
  refine telemetry_eq_of_fields h0 h1 (telemetryLayout_flen r) (Vector.ext fun k hk => ?_) (telemetryLayout_rsvd r)
    (telemetryLayout_csum r)
  rw [telemetryFields, Vector.getElem_ofFn]
  exact telemetryLayout_m r ⟨k, hk⟩

theorem parseTelemetry_telemetryLayout
    (h : r.csum.toNat = ∑ i : Fin 30, ((telemetryLayout r)[i.val]).toNat) :
    parseTelemetry (telemetryLayout r) = .ok r := by
  rw [← telemetrySum_toNat, BitVec.toNat_inj, ← telemetryLayout_csum] at h
  rw [parseTelemetry, if_pos h, telemetryFields_telemetryLayout]

/-- The checksum bytes lie after the thirty that are summed. -/
theorem telemetryLayout_with_csum (c : Half) (i : Fin 30) :
    (telemetryLayout { r with csum := c })[i.val] = (telemetryLayout r)[i.val] := by
  have := i.isLt
  simp only [telemetryLayout, Vector.getElem_ofFn]
  split_ifs <;> rfl

/-- Every record has a checksum that is the true sum of its frame. -/
theorem exists_telemetry_csum :
    ∃ c : Half, c.toNat = ∑ i : Fin 30, ((telemetryLayout { r with csum := c })[i.val]).toNat := by
  refine ⟨telemetrySum (telemetryLayout r), ?_⟩
  simp only [telemetryLayout_with_csum, telemetrySum_toNat]

end

/-- Settles O46: the layout field by field, then the parser on it, then the checksum that fits it. -/
theorem telemetryFrameRoundTrips : Obligations.TelemetryFrameRoundTrips := by
  intro r F
  obtain ⟨h0, h1⟩ := telemetryLayout_header r
  refine ⟨⟨h0, h1, telemetryLayout_flen r, fun k => ?_, telemetryLayout_rsvd r, telemetryLayout_csum r⟩,
    parseTelemetry_telemetryLayout r, exists_telemetry_csum r⟩
  have h := telemetryLayout_m r k
  simpa only [memRead16, show 4 + 2 * k.val + 1 = 5 + 2 * k.val by omega] using h

/-! ### The acknowledgement literals (R81, R113) -/

/-- The literals differ in their last byte. -/
theorem ackLiteral_inj {sel sel' : AckSel} (h : (ackLiteral sel)[7] = (ackLiteral sel')[7]) : sel = sel' := by
  revert h
  cases sel <;> cases sel' <;> decide

/-- Settles O47: the two ways of a comparison whose precondition holds. -/
theorem ackcmpComparesTheSelectedLiteral : Obligations.AckcmpComparesTheSelectedLiteral := by
  intro sel s hphase hlen literal
  have hliteral : literal = ackLiteral sel := rfl
  have hexec : exec (.ackcmp sel) s = .next (compareAck sel s) := by
    rcases exec_ackcmp_cases sel s with ⟨-, h⟩ | ⟨hnot, -⟩
    · exact h
    · simp [hphase, hlen] at hnot
  rw [hliteral, hexec]
  rcases compareAck_cases sel s with ⟨hmatch, h⟩ | ⟨hmatch, h⟩
  · exact ⟨fun _ => congrArg _ h, fun hne => absurd hmatch hne⟩
  · exact ⟨fun hall => absurd hall hmatch, fun _ => congrArg _ h⟩

/-- ACKCMP reports OK only for a frame that is the selected literal. -/
theorem buf_eq_ackLiteral_of_exec_ok {sel : AckSel} {s t : State} (hexec : exec (.ackcmp sel) s = .next t)
    (hok : t.result = .ok) : ∀ i : Fin 8, s.buf[i.val] = (ackLiteral sel)[i.val] := by
  rcases exec_ackcmp_cases sel s with ⟨-, h⟩ | ⟨-, h⟩ <;> cases hexec.symm.trans h
  · rcases compareAck_cases sel s with ⟨hmatch, -⟩ | ⟨-, e⟩
    · exact hmatch
    · simp [e] at hok
  · cases hok

/-- Settles O48: byte 7 of BUF is that of both literals. -/
theorem atMostOneSelectorMatches : Obligations.AtMostOneSelectorMatches := by
  intro sel sel' s t t' hexec hexec' hok hok'
  have h := buf_eq_ackLiteral_of_exec_ok hexec hok 7
  have h' := buf_eq_ackLiteral_of_exec_ok hexec' hok' 7
  exact ackLiteral_inj (h.symm.trans h')

/-! ### The pseudo-instructions (R74) -/

/-- The word of a FEEDB is a constant and its byte (R64). -/
theorem encode_feedb (b : Byte) : encode (.feedb b) = (0x200000#24) ++ b := by
  have hconst : (0x2#4) ++ (0#18) ++ (0#2) = 0x200000#24 := by decide
  rw [encode, encodeFeed, hconst]

/-- Settles O57: fixed words, and FEEDS by its bytes. -/
theorem pseudoInstructionsHaveTheSpecsWords : Obligations.PseudoInstructionsHaveTheSpecsWords := by
  refine ⟨by decide, by decide, by decide, by decide, by decide, by decide, by decide, fun bs => ?_⟩
  rw [Pseudo.expand, List.map_map]
  exact List.map_congr_left fun b _ => encode_feedb b

/-! ### Operands as numbers (R73) -/

theorem fitField_eq_some {k v : Nat} {x : BitVec k} :
    fitField k v = some x ↔ v < 2 ^ k ∧ BitVec.ofNat k v = x := by
  simp [fitField]

theorem asmRdstart_eq_some {len budget : Nat} {i : Instr} :
    asmRdstart len budget = some i ↔ ∃ l b, fitField 8 len = some l ∧ fitField 16 budget = some b ∧
      wellFormed (.rdstart l b) = true ∧ .rdstart l b = i := by
  unfold asmRdstart
  cases fitField 8 len <;> cases fitField 16 budget <;> simp

theorem asmFeedb_eq_some {b : Nat} {i : Instr} :
    asmFeedb b = some i ↔ ∃ x, fitField 8 b = some x ∧ .feedb x = i := by
  simp [asmFeedb]

theorem asmEncode_eq_some {opc data : Nat} {i : Instr} :
    asmEncode opc data = some i ↔ ∃ o d, fitField 8 opc = some o ∧ fitField 16 data = some d ∧
      .encode o d = i := by
  unfold asmEncode
  cases fitField 8 opc <;> cases fitField 16 data <;> simp

/-- A length that fits its field is read unchanged, so the check of R71 is on the number written. -/
theorem wellFormed_rdstart_ofNat {len : Nat} (h : len < 256) (b : Half) :
    wellFormed (.rdstart (BitVec.ofNat 8 len) b) = true ↔ 3 ≤ len ∧ len ≤ 32 := by
  rw [wellFormed_rdstart_iff, BitVec.toNat_ofNat, Nat.mod_eq_of_lt h]
  rfl

/-- Settles O58: a field takes the number when it fits, and RDSTART's length is checked besides. -/
theorem assemblerRefusesOperandsThatDoNotFit : Obligations.AssemblerRefusesOperandsThatDoNotFit := by
  refine ⟨fun len budget i => ?_, fun b i => ?_, fun opc data i => ?_⟩
  · simp only [asmRdstart_eq_some, fitField_eq_some]
    constructor
    · rintro ⟨_, _, ⟨hlen, rfl⟩, ⟨hbudget, rfl⟩, hwf, rfl⟩
      obtain ⟨hmin, hmax⟩ := (wellFormed_rdstart_ofNat hlen _).mp hwf
      exact ⟨hmin, hmax, hbudget, rfl⟩
    · rintro ⟨hmin, hmax, hbudget, rfl⟩
      have hlen : len < 2 ^ 8 := by omega
      exact ⟨_, _, ⟨hlen, rfl⟩, ⟨hbudget, rfl⟩, (wellFormed_rdstart_ofNat hlen _).mpr ⟨hmin, hmax⟩, rfl⟩
  · simp only [asmFeedb_eq_some, fitField_eq_some]
    constructor
    · rintro ⟨_, ⟨hb, rfl⟩, rfl⟩
      exact ⟨hb, rfl⟩
    · rintro ⟨hb, rfl⟩
      exact ⟨_, ⟨hb, rfl⟩, rfl⟩
  · simp only [asmEncode_eq_some, fitField_eq_some]
    constructor
    · rintro ⟨_, _, ⟨hopc, rfl⟩, ⟨hdata, rfl⟩, rfl⟩
      exact ⟨hopc, hdata, rfl⟩
    · rintro ⟨hopc, hdata, rfl⟩
      exact ⟨_, _, ⟨hopc, rfl⟩, ⟨hdata, rfl⟩, rfl⟩

/-! ### Assembled lines (R73, R74) -/

/-- Every command of the list is well-formed. -/
def AllWellFormed (is : List Instr) : Prop := ∀ i ∈ is, wellFormed i = true

/-- Where the assembler does not refuse, it answers well-formed commands. -/
def AnswersWellFormed (a : Option (List Instr)) : Prop := ∀ is, a = some is → AllWellFormed is

theorem allWellFormed_singleton {i : Instr} (h : wellFormed i = true) : AllWellFormed [i] :=
  List.forall_mem_singleton.mpr h

/-- A pseudo-instruction stands for well-formed commands only (R74). -/
theorem allWellFormed_expand (p : Pseudo) : AllWellFormed p.expand := by
  cases p with
  | feeds bs =>
    intro i hi
    obtain ⟨b, -, rfl⟩ := List.mem_map.mp hi
    rfl
  | _ => exact allWellFormed_singleton rfl

theorem AnswersWellFormed.refused : AnswersWellFormed none := nofun

theorem AnswersWellFormed.answered {is : List Instr} (h : AllWellFormed is) : AnswersWellFormed (some is) := by
  rintro _ ⟨⟩
  exact h

theorem AnswersWellFormed.ite {c : Prop} [Decidable c] {a b : Option (List Instr)} (ha : AnswersWellFormed a)
    (hb : AnswersWellFormed b) : AnswersWellFormed (if c then a else b) := by
  split_ifs
  · exact ha
  · exact hb

theorem AnswersWellFormed.map {α : Type} {o : Option α} {f : α → List Instr}
    (h : ∀ x, o = some x → AllWellFormed (f x)) : AnswersWellFormed (o.map f) := by
  intro is his
  obtain ⟨x, hx, rfl⟩ := Option.map_eq_some_iff.mp his
  exact h x hx

section
variable {ops : List (List Char)}

theorem answersWellFormed_withoutOperands {is : List Instr} (h : AllWellFormed is) :
    AnswersWellFormed (withoutOperands ops is) :=
  .ite (.answered h) .refused

theorem answersWellFormed_oneNumber {f : Nat → Option Instr} (hf : ∀ a i, f a = some i → wellFormed i = true) :
    AnswersWellFormed (oneNumber ops f) := by
  unfold oneNumber
  split
  · exact .map fun i hi => allWellFormed_singleton (hf _ i hi)
  · exact .refused

theorem answersWellFormed_twoNumbers {f : Nat → Nat → Option Instr}
    (hf : ∀ a b i, f a b = some i → wellFormed i = true) : AnswersWellFormed (twoNumbers ops f) := by
  unfold twoNumbers
  split
  · exact .map fun i hi => allWellFormed_singleton (hf _ _ i hi)
  · exact .refused

end

theorem wellFormed_of_asmRdstart (len budget : Nat) (i : Instr) (h : asmRdstart len budget = some i) :
    wellFormed i = true := by
  obtain ⟨l, b, -, -, hwf, rfl⟩ := asmRdstart_eq_some.mp h
  exact hwf

theorem wellFormed_of_asmFeedb (b : Nat) (i : Instr) (h : asmFeedb b = some i) : wellFormed i = true := by
  obtain ⟨x, -, rfl⟩ := asmFeedb_eq_some.mp h
  rfl

theorem wellFormed_of_asmEncode (opc data : Nat) (i : Instr) (h : asmEncode opc data = some i) :
    wellFormed i = true := by
  obtain ⟨o, d, -, -, rfl⟩ := asmEncode_eq_some.mp h
  rfl

/-- Mnemonic by mnemonic: the commands of R73, then the pseudo-instructions of R74. -/
theorem answersWellFormed_assembleOp (name : List Char) (ops : List (List Char)) :
    AnswersWellFormed (assembleOp name ops) := by
  unfold assembleOp
  refine .ite (answersWellFormed_twoNumbers wellFormed_of_asmRdstart) ?_
  refine .ite (answersWellFormed_oneNumber wellFormed_of_asmFeedb) ?_
  refine .ite (answersWellFormed_withoutOperands (allWellFormed_singleton rfl)) ?_
  refine .ite (answersWellFormed_withoutOperands (allWellFormed_singleton rfl)) ?_
  refine .ite (answersWellFormed_twoNumbers wellFormed_of_asmEncode) ?_
  refine .ite (answersWellFormed_withoutOperands (allWellFormed_singleton rfl)) ?_
  refine .ite ?ackcmp ?_
  case ackcmp =>
    split
    · exact .map fun sel _ => allWellFormed_singleton rfl
    · exact .refused
  iterate 7 refine .ite (answersWellFormed_withoutOperands (allWellFormed_expand _)) ?_
  exact .ite (.map fun bs _ => allWellFormed_expand (.feeds bs)) .refused

theorem answersWellFormed_assembleLine (line : List Char) : AnswersWellFormed (assembleLine line) :=
  .ite (.answered (List.forall_mem_nil _)) <| .ite (.answered (List.forall_mem_nil _)) <| answersWellFormed_assembleOp _ _

/-- Settles O59: a line's words are the encodings of well-formed commands, which decode to these commands. -/
theorem assembledWordsAreLegal : Obligations.AssembledWordsAreLegal := by
  intro line ws hws w hw
  obtain ⟨is, his, rfl⟩ := Option.map_eq_some_iff.mp hws
  obtain ⟨i, hi, rfl⟩ := List.mem_map.mp hw
  exact ⟨i, decode_encode (answersWellFormed_assembleLine line is his i hi), rfl⟩

end Sys2Proof.Machine

/-! PROOFS. The resynchronizing reader (40_reader.md R85 to R104): its invariants, what each read outcome does, and what
whole streams of outcomes lead to. -/

namespace Sys2Proof.Machine

variable {s t : State}

/-! ### What a step can do to the reader's registers -/

/-- The registers of a read, PHASE, LEN, CURSOR, RETRY and BUF, are the same in both states. -/
structure SameReader (s t : State) : Prop where
  phase : t.phase = s.phase
  len : t.len = s.len
  cursor : t.cursor = s.cursor
  retry : t.retry = s.retry
  buf : t.buf = s.buf

/-- A command is a read outcome, or RDSTART, or leaves the registers of the read. -/
theorem exec_reader_cases {i : Instr} (h : exec i s = .next t) :
    (∃ o, i = feedInstr o ∧ t = feedOutcome o s) ∨ (∃ l b, i = .rdstart l b ∧ t = startRead l b s) ∨
      (∀ l b, i ≠ .rdstart l b) ∧ SameReader s t := by
  cases i with
  | rdstart l b => cases h; exact .inr (.inl ⟨l, b, rfl, rfl⟩)
  | feedb b => cases h; exact .inl ⟨.byte b, rfl, rfl⟩
  | feedn => cases h; exact .inl ⟨.notReady, rfl, rfl⟩
  | feedf => cases h; exact .inl ⟨.fault, rfl, rfl⟩
  | encode o d => cases h; exact .inr (.inr ⟨nofun, rfl, rfl, rfl, rfl, rfl⟩)
  | parse =>
    obtain ⟨_, _, _, _, e⟩ := exec_parse_writes s
    cases h.symm.trans e
    exact .inr (.inr ⟨nofun, rfl, rfl, rfl, rfl, rfl⟩)
  | ackcmp sel =>
    obtain ⟨_, _, e⟩ := exec_ackcmp_writes sel s
    cases h.symm.trans e
    exact .inr (.inr ⟨nofun, rfl, rfl, rfl, rfl, rfl⟩)

/-- A step takes a read outcome, an RDSTART or RST, or leaves the registers of the read. -/
theorem step_reader_cases (h : step s = .next t) :
    (∃ o rest, s.port = .command (encode (feedInstr o)) :: rest ∧ t = feedOutcome o { s with port := rest }) ∨
    (∃ l b rest, wellFormed (.rdstart l b) = true ∧ s.port = .command (encode (.rdstart l b)) :: rest ∧
      t = startRead l b { s with port := rest }) ∨
    (∃ c rest, s.port = .rst c :: rest ∧ t = takeReset { s with port := rest }) ∨
    SameReader s t := by
  rcases step_cases s with
    ⟨-, e⟩ | ⟨c, rest, hport, e⟩ | ⟨w, i, rest, hport, hdecode, e⟩ | ⟨w, r, rest, -, -, e⟩
  · cases h.symm.trans e
    exact .inr (.inr (.inr ⟨rfl, rfl, rfl, rfl, rfl⟩))
  · cases h.symm.trans e
    exact .inr (.inr (.inl ⟨c, rest, hport, rfl⟩))
  · obtain ⟨hwf, rfl⟩ := decode_eq_ok_iff_encode_eq.mp hdecode
    rcases exec_reader_cases (e.symm.trans h) with ⟨o, rfl, ht⟩ | ⟨l, b, rfl, ht⟩ | ⟨-, hsame⟩
    · exact .inl ⟨o, rest, hport, ht⟩
    · exact .inr (.inl ⟨l, b, rest, hwf, hport, ht⟩)
    · exact .inr (.inr (.inr ⟨hsame.phase, hsame.len, hsame.cursor, hsame.retry, hsame.buf⟩))
  · cases h.symm.trans e
    exact .inr (.inr (.inr ⟨rfl, rfl, rfl, rfl, rfl⟩))

/-! ### The reader's invariants (R36) -/

theorem Phase.ne_of_isActive {p : Phase} (h : p.isActive = true) : p ≠ .idle ∧ p ≠ .failed := by
  constructor <;> rintro rfl <;> cases h

/-- R36, but for its line about RETRY, speaks of PHASE, LEN, CURSOR and BUF only. -/
theorem ReaderInv.congr (h : ReaderInv s) (hp : t.phase = s.phase) (hl : t.len = s.len) (hc : t.cursor = s.cursor)
    (hb : t.buf = s.buf) : ReaderInv t where
  awaiting_cursor := by rw [hp, hc]; exact h.awaiting_cursor
  collecting := by rw [hp, hc, hl, hb]; exact h.collecting
  finished := by rw [hp, hc, hl, hb]; exact h.finished
  length := by rw [hp, hl]; exact h.length
  tail_zero := by rw [hl, hb]; exact h.tail_zero
  awaiting_zero := by rw [hp, hb]; exact h.awaiting_zero
  len_range := by rw [hl]; exact h.len_range
  cursor_range := by rw [hc]; exact h.cursor_range

theorem readerInv_takeReset (s : State) : ReaderInv (takeReset s) :=
  readerInvariantAtReset.with_port s.port

/-- A fresh read awaits HDR1 with BUF all 0, and a legal length is from 3 to 32. -/
theorem readerInv_startRead {l : Byte} {b : Half} (hwf : wellFormed (.rdstart l b) = true) (s : State) :
    ReaderInv (startRead l b s) := by
  obtain ⟨hmin, hmax⟩ : 3 ≤ l.toNat ∧ l.toNat ≤ 32 := wellFormed_rdstart_iff.mp hwf
  have hlen : (startRead l b s).len.toNat = l.toNat := lenOperand_toNat hmax
  have hbuf : ∀ i : Fin 32, (startRead l b s).buf[i.val] = 0 := fun i => by simp [startRead]
  exact {
    awaiting_cursor := fun _ => rfl
    collecting := nofun
    finished := nofun
    length := fun _ => by omega
    tail_zero := fun i _ => hbuf i
    awaiting_zero := fun _ => hbuf
    len_range := by omega
    cursor_range := Nat.zero_le 32 }

/-- A failed read promises nothing of CURSOR and the header bytes. -/
theorem ReaderInv.after_consumeRetry (h : ReaderInv s) (hp : s.phase ≠ .idle) : ReaderInv (consumeRetry s) := by
  rcases consumeRetry_cases s with ⟨-, e⟩ | ⟨-, e⟩ <;> rw [e]
  · exact {
      awaiting_cursor := by simp
      collecting := nofun
      finished := nofun
      length := fun _ => h.length hp
      tail_zero := h.tail_zero
      awaiting_zero := by simp
      len_range := h.len_range
      cursor_range := h.cursor_range }
  · exact h.congr rfl rfl rfl rfl

/-- Between the two awaiting phases nothing that R36 speaks of changes. -/
theorem ReaderInv.awaiting (h : ReaderInv s) (hs : s.phase = .awaitingHeader1 ∨ s.phase = .awaitingHeader2) {p : Phase}
    (hp : p = .awaitingHeader1 ∨ p = .awaitingHeader2) (e : ResultCode) :
    ReaderInv { s with phase := p, result := e } where
  awaiting_cursor _ := h.awaiting_cursor hs
  collecting hc := by rcases hp with rfl | rfl <;> cases hc
  finished hf := by rcases hp with rfl | rfl <;> cases hf
  length _ := h.length (by rcases hs with hs | hs <;> simp [hs])
  tail_zero := h.tail_zero
  awaiting_zero _ := h.awaiting_zero hs
  len_range := h.len_range
  cursor_range := h.cursor_range

/-- The header match writes the two bytes that R36 asks for, both below LEN. -/
theorem ReaderInv.header_match (h : ReaderInv s) (hs : s.phase = .awaitingHeader2) :
    ReaderInv { s with
      buf := (s.buf.set 0 Config.hdr1).set 1 Config.hdr2, cursor := 2#6, phase := .collecting, result := .ok } := by
  obtain ⟨hmin, hmax⟩ := h.length (by simp [hs])
  exact {
    awaiting_cursor := by simp
    collecting := fun _ => ⟨le_rfl, hmin, by simp, by simp⟩
    finished := nofun
    length := fun _ => ⟨hmin, hmax⟩
    tail_zero := fun i hi => by
      have hge : 3 ≤ i.val := hmin.trans hi
      simpa [Vector.getElem_set_ne, show (0 : Nat) ≠ i.val by omega, show (1 : Nat) ≠ i.val by omega]
        using h.tail_zero i hi
    awaiting_zero := by simp
    len_range := hmax
    cursor_range := by simp }

/-- In Collecting the byte goes to BUF[CURSOR], which is inside BUF, and the read is Finished when CURSOR reaches LEN
(R92). -/
theorem ReaderInv.feedOutcome_collecting (h : ReaderInv s) (hs : s.phase = .collecting) (b : Byte) :
    ∃ hc : s.cursor.toNat < 32, feedOutcome (.byte b) s =
      { s with
        buf := s.buf.set s.cursor.toNat b hc
        cursor := s.cursor + 1#6
        phase := if s.cursor.toNat + 1 = s.len.toNat then .finished else .collecting
        result := .ok } := by
  obtain ⟨-, hlt, -, -⟩ := h.collecting hs
  have hc : s.cursor.toNat < 32 := hlt.trans_le h.len_range
  have hend : s.cursor + 1#6 = s.len ↔ s.cursor.toNat + 1 = s.len.toNat := by
    rw [← BitVec.toNat_inj, h.cursor_succ hs]
  refine ⟨hc, ?_⟩
  rw [feedOutcome, readerStep_collecting _ _ _ hs, memWrite8_eq_set _ _ _ hc]
  simp only [hend]

/-- The byte lies below LEN and above the header bytes. -/
theorem ReaderInv.after_collecting (h : ReaderInv s) (hs : s.phase = .collecting) (b : Byte) :
    ReaderInv (feedOutcome (.byte b) s) := by
  obtain ⟨hge, hlt, h0, h1⟩ := h.collecting hs
  obtain ⟨hc, e⟩ := h.feedOutcome_collecting hs b
  have hsucc := h.cursor_succ hs
  have hkeep : ∀ j (hj : j < 32), s.cursor.toNat ≠ j → (s.buf.set s.cursor.toNat b hc)[j] = s.buf[j] :=
    fun j hj hne => Vector.getElem_set_ne (h := hne) ..
  have hdr0 := (hkeep 0 (by omega) (by omega)).trans h0
  have hdr1 := (hkeep 1 (by omega) (by omega)).trans h1
  have hlen := h.length (by simp [hs])
  have htail : ∀ i : Fin 32, s.len.toNat ≤ i.val → (s.buf.set s.cursor.toNat b hc)[i.val] = 0 :=
    fun i hi => (hkeep i.val i.isLt (by omega)).trans (h.tail_zero i hi)
  rw [e]
  exact {
    awaiting_cursor := by split_ifs <;> simp
    collecting := fun hp => by
      have hend : s.cursor.toNat + 1 ≠ s.len.toNat := fun hend => by simp [hend] at hp
      exact ⟨by simp only [hsucc]; omega, by simp only [hsucc]; omega, hdr0, hdr1⟩
    finished := fun hp => by
      have hend : s.cursor.toNat + 1 = s.len.toNat := by
        by_contra hne
        simp [hne] at hp
      exact ⟨BitVec.eq_of_toNat_eq (hsucc.trans hend), hdr0, hdr1⟩
    length := fun _ => hlen
    tail_zero := htail
    awaiting_zero := by split_ifs <;> simp
    len_range := h.len_range
    cursor_range := hsucc.trans_le (by omega) }

/-- Every read outcome keeps R36. -/
theorem ReaderInv.after_feedOutcome (h : ReaderInv s) (o : ReadOutcome) : ReaderInv (feedOutcome o s) := by
  rcases readerStep_cases Config.hdr1 Config.hdr2 o s with
    ⟨-, e⟩ | ⟨ha, -, e⟩ | ⟨hs, -, e⟩ | ⟨hs, -, e⟩ | ⟨hs, -, e⟩ | ⟨hs, b, rfl, -⟩
  case inr.inr.inr.inr.inr => exact h.after_collecting hs b
  all_goals rw [feedOutcome, e]
  · exact h
  · exact h.after_consumeRetry (Phase.ne_of_isActive ha).1
  · exact h.awaiting (.inl hs) (.inr rfl) .ok
  · exact h.header_match hs
  · exact h.awaiting (.inr hs) (.inl rfl) .ok

/-- Settles O14, by what a step can do to the registers of the read. -/
theorem stepKeepsReaderInvariant : Obligations.StepKeepsReaderInvariant := by
  intro s t h hstep
  rcases step_reader_cases hstep with
    ⟨o, rest, -, rfl⟩ | ⟨l, b, rest, hwf, -, rfl⟩ | ⟨c, rest, -, rfl⟩ | hsame
  · exact (h.with_port rest).after_feedOutcome o
  · exact readerInv_startRead hwf _
  · exact readerInv_takeReset _
  · exact h.congr hsame.phase hsame.len hsame.cursor hsame.buf

/-! ### RETRY and the budget of the last RDSTART (R36) -/

/-- Spent or consumed, RETRY does not grow. -/
theorem consumeRetry_retry_le (s : State) : (consumeRetry s).retry ≤ s.retry := by
  rcases consumeRetry_cases s with ⟨-, e⟩ | ⟨hne, e⟩ <;> rw [e]
  · exact BitVec.le_refl _
  · show s.retry - 1#16 ≤ s.retry
    bv_omega

theorem feedOutcome_retry_le (o : ReadOutcome) (s : State) : (feedOutcome o s).retry ≤ s.retry := by
  rcases readerStep_cases Config.hdr1 Config.hdr2 o s with
    ⟨-, e⟩ | ⟨-, -, e⟩ | ⟨-, -, e⟩ | ⟨-, -, e⟩ | ⟨-, -, e⟩ | ⟨-, b, -, e⟩ <;> rw [feedOutcome, e]
  case inr.inl => exact consumeRetry_retry_le s
  all_goals exact BitVec.le_refl _

theorem budgetAfter_rdstart {w : Word} {l : Byte} {c : Half} (hw : decode w = .ok (.rdstart l c)) (b : Half) :
    budgetAfter b (.command w) = c := by
  simp only [budgetAfter, hw]

/-- A word that is no RDSTART leaves the budget of the last one. -/
theorem budgetAfter_of_ne {w : Word} (hw : ∀ l c, decode w ≠ .ok (.rdstart l c)) (b : Half) :
    budgetAfter b (.command w) = b := by
  simp only [budgetAfter]

/-- A command that is no RDSTART does not raise RETRY. -/
theorem exec_retry_le {i : Instr} (hi : ∀ l c, i ≠ .rdstart l c) (h : exec i s = .next t) : t.retry ≤ s.retry := by
  rcases exec_reader_cases h with ⟨o, -, rfl⟩ | ⟨l, c, rfl, -⟩ | ⟨-, hsame⟩
  · exact feedOutcome_retry_le o s
  · exact absurd rfl (hi l c)
  · exact hsame.retry ▸ BitVec.le_refl _

/-- A step keeps RETRY at most the budget of the last RDSTART, the step's own input included. -/
theorem step_retry_le {i : PortInput} {rest : List PortInput} {b : Half} (hport : s.port = i :: rest)
    (hb : s.retry ≤ b) (h : step s = .next t) : t.retry ≤ budgetAfter b i := by
  cases i with
  | rst c =>
    cases h.symm.trans (step_rst hport)
    exact BitVec.le_refl _
  | command w =>
    rw [step_command hport] at h
    cases hw : decode w with
    | error e =>
      cases h.symm.trans (runWord_error hw _)
      rw [budgetAfter_of_ne (by simp [hw])]
      exact hb
    | ok i =>
      rw [runWord_ok hw] at h
      by_cases hi : ∃ l c, i = .rdstart l c
      · obtain ⟨l, c, rfl⟩ := hi
        cases h
        rw [budgetAfter_rdstart hw]
        exact BitVec.le_refl _
      · rw [budgetAfter_of_ne (by simpa [hw] using hi)]
        exact BitVec.le_trans (exec_retry_le (by simpa using hi) h) hb

/-- Settles O15, by induction on the inputs: a step keeps the invariants, and RETRY below the budget as its input leaves
it. -/
theorem everyRunKeepsReaderInvariantAndBudget : Obligations.EveryRunKeepsReaderInvariantAndBudget := by
  intro ins
  induction ins with
  | nil =>
    intro b s t h hb hrun
    cases hrun
    exact ⟨h.with_port [], hb⟩
  | cons i rest ih =>
    intro b s t h hb hrun
    obtain ⟨u, hstep, hport⟩ := everyStepAnswersANextState { s with port := i :: rest }
    have hinv := stepKeepsReaderInvariant _ u (h.with_port (i :: rest)) hstep
    have hretry : u.retry ≤ budgetAfter b i := step_retry_le (s := { s with port := i :: rest }) rfl hb hstep
    have hu : { u with port := rest } = u := congrArg (fun p => { u with port := p }) hport.symm
    refine ih (budgetAfter b i) u t hinv hretry ?_
    rw [hu]
    exact (run_succ hstep rest.length).symm.trans hrun

/-! ### Streams of read outcomes -/

/-- The state after these read outcomes, in order. -/
def feedAll (os : List ReadOutcome) (s : State) : State := os.foldl (fun t o => feedOutcome o t) s

@[simp] theorem feedAll_nil (s : State) : feedAll [] s = s := rfl

@[simp] theorem feedAll_cons (o : ReadOutcome) (os : List ReadOutcome) (s : State) :
    feedAll (o :: os) s = feedAll os (feedOutcome o s) := rfl

@[simp] theorem feedAll_append (os os' : List ReadOutcome) (s : State) :
    feedAll (os ++ os') s = feedAll os' (feedAll os s) := List.foldl_append

/-- Presenting the outcomes to the block and stepping leads to the same state (R87, R88). -/
theorem runFeeds_eq_feedAll (os : List ReadOutcome) (s : State) : runFeeds os s = .next (feedAll os s) := by
  induction os generalizing s with
  | nil => exact runFeeds_nil s
  | cons o os ih => rw [runFeeds_cons, ih, feedAll_cons]

/-- R93: outside an active phase a read outcome changes nothing. -/
theorem feedOutcome_inactive (o : ReadOutcome) (h : s.phase.isActive = false) : feedOutcome o s = s :=
  readerStep_inactive _ _ o h

theorem feedAll_inactive (os : List ReadOutcome) (h : s.phase.isActive = false) : feedAll os s = s := by
  induction os with
  | nil => rfl
  | cons o os ih => rw [feedAll_cons, feedOutcome_inactive o h, ih]

/-! ### Failure (R91, R97, R98) -/

theorem isInterruption_inactive (o : ReadOutcome) (h : s.phase.isActive = false) :
    isInterruption s.phase o = false := by
  cases o with
  | byte b =>
    have hp : s.phase ≠ .awaitingHeader1 := fun hp => by simp [hp, Phase.isActive] at h
    simp [isInterruption, hp]
  | notReady => exact h
  | fault => exact h

theorem interruptions_inactive (os : List ReadOutcome) (h : s.phase.isActive = false) : interruptions os s = 0 := by
  induction os with
  | nil => rfl
  | cons o os ih => simp [interruptions, isInterruption_inactive o h, feedOutcome_inactive o h, ih]

/-- An interruption consumes retry; any other outcome leaves RETRY and fails no read. -/
theorem feedOutcome_interruption_cases (o : ReadOutcome) (s : State) :
    (isInterruption s.phase o = true ∧ s.phase.isActive = true ∧ feedOutcome o s = consumeRetry s) ∨
    (isInterruption s.phase o = false ∧ (feedOutcome o s).retry = s.retry ∧
      (s.phase ≠ .failed → (feedOutcome o s).phase ≠ .failed)) := by
  rcases readerStep_cases Config.hdr1 Config.hdr2 o s with
    ⟨ha, e⟩ | ⟨ha, hbyte, e⟩ | ⟨hs, rfl, e⟩ | ⟨hs, rfl, e⟩ | ⟨hs, ⟨b, rfl, hb⟩, e⟩ | ⟨hs, b, rfl, e⟩
  case inr.inl =>
    refine .inl ⟨?_, ha, e⟩
    cases o with
    | byte b =>
      obtain ⟨hs, hb⟩ := hbyte b rfl
      simp [isInterruption, hs, hb]
    | notReady => exact ha
    | fault => exact ha
  all_goals refine .inr ⟨?_, by rw [feedOutcome, e], fun hf => ?_⟩
  · exact isInterruption_inactive o ha
  · rwa [feedOutcome, e]
  · simp [isInterruption]
  · simp [feedOutcome, e]
  · simp [isInterruption, hs]
  · simp [feedOutcome, e]
  · simp [isInterruption, hs]
  · simp [feedOutcome, e]
  · simp [isInterruption, hs]
  · rw [feedOutcome, e]
    split_ifs <;> simp

/-- After `n` interruptions of a read that had `budget` left: RETRY is what is left, or the read failed at the
interruption after the last one paid for. -/
def CountsDown (budget n : Nat) (t : State) : Prop :=
  t.phase ≠ .failed ∧ t.retry.toNat + n = budget ∨ t.phase = .failed ∧ t.retry = 0#16 ∧ n = budget + 1

/-- By induction on the outcomes: the first one fails the read, or takes one from RETRY, or is free. -/
theorem feedAll_countsDown (os : List ReadOutcome) (s : State) (h : s.phase ≠ .failed) :
    CountsDown s.retry.toNat (interruptions os s) (feedAll os s) := by
  induction os generalizing s with
  | nil => exact .inl ⟨h, rfl⟩
  | cons o os ih =>
    simp only [interruptions, feedAll_cons]
    rcases feedOutcome_interruption_cases o s with ⟨hi, ha, e⟩ | ⟨hi, hretry, hphase⟩
    · simp only [hi, if_true]
      rcases consumeRetry_cases s with ⟨hzero, e'⟩ | ⟨hpos, e'⟩ <;> rw [e, e']
      · rw [feedAll_inactive os rfl, interruptions_inactive os rfl]
        exact .inr ⟨rfl, hzero, by simp [hzero]⟩
      · have hpred : (s.retry - 1#16).toNat + 1 = s.retry.toNat := by bv_omega
        rcases ih { s with retry := s.retry - 1#16, result := .ok } h with ⟨hp, hr⟩ | ⟨hp, hr, hn⟩
        · refine .inl ⟨hp, ?_⟩
          simp only at hr
          omega
        · refine .inr ⟨hp, hr, ?_⟩
          simp only at hn
          omega
    · simp only [hi, Bool.false_eq_true, if_false, Nat.zero_add]
      rw [← hretry]
      exact ih _ (hphase h)

/-- Settles O28: RETRY counts the interruptions down. -/
theorem failureIsExact : Obligations.FailureIsExact := by
  intro os s ha
  refine ⟨feedAll os s, runFeeds_eq_feedAll os s, ?_⟩
  rcases feedAll_countsDown os s (Phase.ne_of_isActive ha).2 with ⟨hp, hr⟩ | ⟨hp, hr, hn⟩
  · exact ⟨by omega, ⟨fun hf => absurd hf hp, fun hn => by omega⟩, fun _ => by omega, fun hf => absurd hf hp⟩
  · exact ⟨by omega, ⟨fun _ => hn, fun _ => hp⟩, fun hf => absurd hp hf, fun _ => hr⟩

/-! ### Reads that never end (R101) -/

/-- The outcome is one half of an alternation that costs nothing: HDR1 in AwaitingHeader1, or a byte that is not HDR2 in
AwaitingHeader2. -/
def Alternates (s : State) (o : ReadOutcome) : Prop :=
  s.phase = .awaitingHeader1 ∧ o = .byte 0x42 ∨ s.phase = .awaitingHeader2 ∧ ∃ x, x ≠ 0x4D ∧ o = .byte x

theorem feedOutcome_header1 (hs : s.phase = .awaitingHeader1) :
    feedOutcome (.byte 0x42) s = { s with phase := .awaitingHeader2, result := .ok } := by
  rw [feedOutcome, readerStep_header1 _ _ _ hs, if_pos (by rfl)]

theorem feedOutcome_mismatch (hs : s.phase = .awaitingHeader2) {x : Byte} (hx : x ≠ 0x4D) :
    feedOutcome (.byte x) s = { s with phase := .awaitingHeader1, result := .ok } := by
  rw [feedOutcome, readerStep_header2 _ _ _ hs, if_neg (by exact hx)]

/-- The bytes an active read still waits for, 33 standing for the whole frame; a read has at most 30 left in
Collecting. -/
def bytesAwaited (s : State) : Nat := if s.phase = .collecting then s.len.toNat - s.cursor.toNat else 33

/-- What bounds a read: the budget left first, then the bytes it still waits for. -/
def readMeasure (s : State) : Nat := s.retry.toNat * 34 + bytesAwaited s

/-- While a read stays active every outcome lowers the measure, but for the two halves of an alternation. -/
theorem readMeasure_feedOutcome (h : ReaderInv s) (o : ReadOutcome) (ha : s.phase.isActive = true)
    (ha' : (feedOutcome o s).phase.isActive = true) :
    readMeasure (feedOutcome o s) < readMeasure s ∨
      Alternates s o ∧ readMeasure (feedOutcome o s) = readMeasure s := by
  rcases readerStep_cases Config.hdr1 Config.hdr2 o s with
    ⟨hn, -⟩ | ⟨-, -, e⟩ | ⟨hs, rfl, e⟩ | ⟨hs, rfl, e⟩ | ⟨hs, ⟨b, rfl, hb⟩, e⟩ | ⟨hs, b, rfl, e⟩
  case inl => simp [hn] at ha
  all_goals rw [← feedOutcome] at e; rw [e] at ha' ⊢
  · rcases consumeRetry_cases s with ⟨-, e'⟩ | ⟨hpos, e'⟩ <;> rw [e'] at ha' ⊢
    · cases ha'
    · left
      have hpred : (s.retry - 1#16).toNat + 1 = s.retry.toNat := by bv_omega
      simp only [readMeasure, bytesAwaited]
      omega
  · exact .inr ⟨.inl ⟨hs, rfl⟩, by simp [readMeasure, bytesAwaited, hs]⟩
  · left
    have hlen := h.len_range
    simp [readMeasure, bytesAwaited, hs]
    omega
  · exact .inr ⟨.inr ⟨hs, b, hb, rfl⟩, by simp [readMeasure, bytesAwaited, hs]⟩
  · left
    obtain ⟨-, hlt, -, -⟩ := h.collecting hs
    have hsucc := h.cursor_succ hs
    by_cases hend : s.cursor + 1#6 = s.len
    · simp [hend, Phase.isActive] at ha'
    · simp only [readMeasure, bytesAwaited, hs, if_neg hend, if_true, hsucc]
      omega

/-- The state after the first `n` outcomes of an infinite stream. -/
def feedStream (f : Nat → ReadOutcome) (s : State) (n : Nat) : State := feedAll ((List.range n).map f) s

theorem feedStream_succ (f : Nat → ReadOutcome) (s : State) (n : Nat) :
    feedStream f s (n + 1) = feedOutcome (f n) (feedStream f s n) := by
  simp [feedStream, List.range_succ]

theorem readerInv_feedStream (f : Nat → ReadOutcome) (h : ReaderInv s) (n : Nat) : ReaderInv (feedStream f s n) := by
  induction n with
  | zero => exact h
  | succ n ih => rw [feedStream_succ]; exact ih.after_feedOutcome (f n)

/-- The measure cannot fall for ever: from the state where it is least on, every outcome is half of an alternation. -/
theorem exists_feedStream_alternates {f : Nat → ReadOutcome} (h : ReaderInv s)
    (ha : ∀ n, (feedStream f s n).phase.isActive = true) : ∃ N, ∀ m, N ≤ m → Alternates (feedStream f s m) (f m) := by
  obtain ⟨N, hN⟩ : ∃ N, ∀ m, readMeasure (feedStream f s N) ≤ readMeasure (feedStream f s m) :=
    ⟨_, fun m => Function.argmin_le (fun n => readMeasure (feedStream f s n)) m⟩
  have hstep : ∀ m, readMeasure (feedStream f s (m + 1)) < readMeasure (feedStream f s m) ∨
      Alternates (feedStream f s m) (f m) ∧
        readMeasure (feedStream f s (m + 1)) = readMeasure (feedStream f s m) := by
    intro m
    have ha' := ha (m + 1)
    rw [feedStream_succ] at ha' ⊢
    exact readMeasure_feedOutcome (readerInv_feedStream f h m) (f m) (ha m) ha'
  have hconst : ∀ m, N ≤ m → readMeasure (feedStream f s m) = readMeasure (feedStream f s N) := by
    intro m hm
    induction m, hm using Nat.le_induction with
    | base => rfl
    | succ m _ ih => rcases hstep m with hlt | ⟨-, heq⟩ <;> have := hN (m + 1) <;> omega
  refine ⟨N, fun m hm => ?_⟩
  rcases hstep m with hlt | ⟨halt, -⟩
  · have := hN (m + 1)
    rw [hconst m hm] at hlt
    omega
  · exact halt

theorem Alternates.from_header1 {o : ReadOutcome} (h : Alternates s o) (hs : s.phase = .awaitingHeader1) :
    o = .byte 0x42 ∧ (feedOutcome o s).phase = .awaitingHeader2 := by
  rcases h with ⟨-, rfl⟩ | ⟨hs', -⟩
  · exact ⟨rfl, by rw [feedOutcome_header1 hs]⟩
  · simp [hs] at hs'

theorem Alternates.from_header2 {o : ReadOutcome} (h : Alternates s o) (hs : s.phase = .awaitingHeader2) :
    (∃ x, x ≠ 0x4D ∧ o = .byte x) ∧ (feedOutcome o s).phase = .awaitingHeader1 := by
  rcases h with ⟨hs', -⟩ | ⟨-, x, hx, rfl⟩
  · simp [hs] at hs'
  · exact ⟨⟨x, hx, rfl⟩, by rw [feedOutcome_mismatch hs hx]⟩

/-- From AwaitingHeader1 two halves of an alternation lead back to it. -/
theorem alternates_pair {f : Nat → ReadOutcome} {m : Nat} (halt : ∀ k, m ≤ k → Alternates (feedStream f s k) (f k))
    (hs : (feedStream f s m).phase = .awaitingHeader1) :
    f m = .byte 0x42 ∧ (∃ x, x ≠ 0x4D ∧ f (m + 1) = .byte x) ∧
      (feedStream f s (m + 2)).phase = .awaitingHeader1 := by
  obtain ⟨hfirst, hs'⟩ := (halt m le_rfl).from_header1 hs
  rw [← feedStream_succ] at hs'
  obtain ⟨hsecond, hs''⟩ := (halt (m + 1) m.le_succ).from_header2 hs'
  rw [← feedStream_succ] at hs''
  exact ⟨hfirst, hsecond, hs''⟩

/-- Settles O32: from some point on every outcome is half of an alternation, and that point or the next one is in
AwaitingHeader1. -/
theorem onlyAlternationNeverEnds : Obligations.OnlyAlternationNeverEnds := by
  intro f s h _ hrun
  have ha : ∀ n, (feedStream f s n).phase.isActive = true := fun n => by
    obtain ⟨t, ht, hact⟩ := hrun n
    cases (runFeeds_eq_feedAll _ s).symm.trans ht
    exact hact
  obtain ⟨N, halt⟩ := exists_feedStream_alternates h ha
  obtain ⟨n, hn, hs⟩ : ∃ n, N ≤ n ∧ (feedStream f s n).phase = .awaitingHeader1 := by
    rcases halt N le_rfl with ⟨hs, -⟩ | ⟨hs, -⟩
    · exact ⟨N, le_rfl, hs⟩
    · refine ⟨N + 1, N.le_succ, ?_⟩
      rw [feedStream_succ]
      exact ((halt N le_rfl).from_header2 hs).2
  have hpair := fun k => alternates_pair (f := f) (m := n + 2 * k) fun m hm => halt m (by omega)
  have hphase : ∀ k, (feedStream f s (n + 2 * k)).phase = .awaitingHeader1 := by
    intro k
    induction k with
    | zero => exact hs
    | succ k ih => exact (hpair k ih).2.2
  refine ⟨n, fun k => ?_⟩
  obtain ⟨hfirst, hsecond, -⟩ := hpair k (hphase k)
  exact ⟨hfirst, hsecond⟩

/-! ### Tolerated interruptions (R99) -/

/-- Interruptions of one phase that the budget pays for lower RETRY by their number, and nothing else but RESULT
changes. -/
theorem feedAll_tolerated {os : List ReadOutcome} (hos : ∀ o ∈ os, isInterruption s.phase o = true)
    (hbudget : os.length ≤ s.retry.toNat) :
    ∃ r e, feedAll os s = { s with retry := r, result := e } ∧ r.toNat + os.length = s.retry.toNat := by
  induction os generalizing s with
  | nil => exact ⟨s.retry, s.result, rfl, rfl⟩
  | cons o os ih =>
    obtain ⟨ho, hos⟩ := List.forall_mem_cons.mp hos
    rw [List.length_cons] at hbudget
    have e : feedOutcome o s = { s with retry := s.retry - 1#16, result := .ok } := by
      rcases feedOutcome_interruption_cases o s with ⟨-, -, e⟩ | ⟨hno, -⟩
      · rcases consumeRetry_cases s with ⟨hzero, -⟩ | ⟨-, e'⟩
        · simp [hzero] at hbudget
        · exact e.trans e'
      · simp [ho] at hno
    have hpred : (s.retry - 1#16).toNat + 1 = s.retry.toNat := by bv_omega
    obtain ⟨r, res, e', hr⟩ := ih (s := { s with retry := s.retry - 1#16, result := .ok }) hos (by simp only; omega)
    refine ⟨r, res, ?_, ?_⟩
    · rw [feedAll_cons, e, e']
    · rw [List.length_cons]
      simp only at hr
      omega

/-- A stall interrupts every active phase (R18). -/
theorem isInterruption_stall {o : ReadOutcome} (ho : o.isStall = true) (ha : s.phase.isActive = true) :
    isInterruption s.phase o = true := by
  cases o with
  | byte b => cases ho
  | notReady => exact ha
  | fault => exact ha

/-- Until HDR1 comes everything else is an interruption (R18). -/
theorem isInterruption_noise {o : ReadOutcome} (ho : o ≠ .byte 0x42) (hs : s.phase = .awaitingHeader1) :
    isInterruption s.phase o = true := by
  cases o with
  | byte b =>
    have hb : b ≠ Config.hdr1 := fun hb => ho (congrArg ReadOutcome.byte hb)
    simp [isInterruption, hs, hb]
  | notReady => rw [hs]; rfl
  | fault => rw [hs]; rfl

/-! ### The payload (R92, R99) -/

/-- Since the header match the read has taken these bytes, in BUF from index 0 on, and this much of RETRY is left. -/
structure HoldsBytes (bs : List Byte) (retry : Nat) (s : State) : Prop where
  inv : ReaderInv s
  phase : s.phase = .collecting ∨ s.phase = .finished
  cursor : s.cursor.toNat = bs.length
  bytes : s.buf.toList.take bs.length = bs
  retry : s.retry.toNat = retry

theorem HoldsBytes.collecting {bs : List Byte} {r : Nat} (h : HoldsBytes bs r s) (hlen : bs.length < s.len.toNat) :
    s.phase = .collecting := by
  rcases h.phase with hs | hs
  · exact hs
  · have hend := congrArg BitVec.toNat (h.inv.finished hs).1
    have := h.cursor
    omega

theorem HoldsBytes.finished {bs : List Byte} {r : Nat} (h : HoldsBytes bs r s) (hlen : bs.length = s.len.toNat) :
    s.phase = .finished := by
  rcases h.phase with hs | hs
  · obtain ⟨-, hlt, -, -⟩ := h.inv.collecting hs
    have := h.cursor
    omega
  · exact hs

/-- A byte stored behind the first `n`. -/
theorem take_succ_set (F : Vector Byte 32) {n : Nat} (hn : n < 32) (b : Byte) :
    (F.set n b).toList.take (n + 1) = F.toList.take n ++ [b] := by
  rw [Vector.toList_set, List.take_add_one, List.take_set_of_le le_rfl]
  simp [hn]

/-- A payload byte, after stalls that the budget pays for. -/
theorem HoldsBytes.after_byte {bs : List Byte} {stalls : List ReadOutcome} {r : Nat}
    (h : HoldsBytes bs (r + stalls.length) s) (hlen : bs.length < s.len.toNat)
    (hstalls : ∀ o ∈ stalls, o.isStall = true) (b : Byte) :
    HoldsBytes (bs ++ [b]) r (feedAll (stalls ++ [.byte b]) s) := by
  have hs := h.collecting hlen
  have hr := h.retry
  have hcursor := h.cursor
  obtain ⟨r', res, e, hr'⟩ := feedAll_tolerated (s := s)
    (fun o ho => isInterruption_stall (hstalls o ho) (by rw [hs]; rfl)) (by omega)
  have hinv : ReaderInv { s with retry := r', result := res } := h.inv.congr rfl rfl rfl rfl
  obtain ⟨hc, e'⟩ := hinv.feedOutcome_collecting hs b
  have hsucc := hinv.cursor_succ hs
  rw [feedAll_append, e, feedAll_cons, feedAll_nil]
  refine ⟨hinv.after_feedOutcome _, ?_, ?_, ?_, ?_⟩ <;> rw [e']
  · simp only
    split_ifs <;> simp
  · simpa [← hcursor] using hsucc
  · simp only [List.length_append, List.length_singleton, ← hcursor, take_succ_set]
    rw [hcursor, h.bytes]
  · simp only
    omega

theorem feedAll_len (os : List ReadOutcome) (s : State) : (feedAll os s).len = s.len := by
  induction os generalizing s with
  | nil => rfl
  | cons o os ih =>
    obtain ⟨-, -, -, -, -, -, -, hlen⟩ := readerStep_keeps Config.hdr1 Config.hdr2 o s
    exact (ih _).trans hlen

/-- The whole payload, by induction on its bytes. -/
theorem HoldsBytes.after_burst {bs : List Byte} {payload : List (List ReadOutcome × Byte)} {r : Nat}
    (h : HoldsBytes bs (r + burstStalls payload) s) (hlen : bs.length + payload.length ≤ s.len.toNat)
    (hstalls : ∀ p ∈ payload, ∀ o ∈ p.1, o.isStall = true) :
    HoldsBytes (bs ++ payload.map Prod.snd) r (feedAll (burstStream payload) s) := by
  induction payload generalizing bs s with
  | nil => simpa [burstStream, burstStalls] using h
  | cons p rest ih =>
    obtain ⟨stalls, b⟩ := p
    obtain ⟨hp, hrest⟩ := List.forall_mem_cons.mp hstalls
    rw [List.length_cons] at hlen
    have hbyte : HoldsBytes (bs ++ [b]) (r + burstStalls rest) (feedAll (stalls ++ [.byte b]) s) := by
      refine HoldsBytes.after_byte ?_ (by omega) hp b
      rwa [burstStalls, Nat.add_comm stalls.length, ← Nat.add_assoc] at h
    have hall := ih hbyte (by rw [feedAll_len, List.length_append, List.length_singleton]; omega) hrest
    simpa [burstStream] using hall

/-! ### The header, then the payload (R99) -/

/-- The header match leaves the two header bytes in BUF, and interruptions cost what they are. -/
theorem holdsBytes_header {noise stalls : List ReadOutcome} {r : Nat} (h : ReaderInv s)
    (hs : s.phase = .awaitingHeader1) (hnoise : ∀ o ∈ noise, o ≠ .byte 0x42)
    (hstalls : ∀ o ∈ stalls, o.isStall = true) (hr : s.retry.toNat = r + (noise.length + stalls.length)) :
    HoldsBytes [0x42, 0x4D] r (feedAll (noise ++ [.byte 0x42] ++ stalls ++ [.byte 0x4D]) s) := by
  obtain ⟨r₁, e₁, hnoise', hr₁⟩ := feedAll_tolerated (s := s) (os := noise)
    (fun o ho => isInterruption_noise (hnoise o ho) hs) (by omega)
  have hfirst := feedOutcome_header1 (s := { s with retry := r₁, result := e₁ }) hs
  obtain ⟨r₂, e₂, hstalls', hr₂⟩ := feedAll_tolerated (os := stalls)
    (s := { s with retry := r₁, phase := .awaitingHeader2, result := .ok })
    (fun o ho => isInterruption_stall (hstalls o ho) rfl) (by simp only; omega)
  have hinv : ReaderInv { s with retry := r₂, phase := .awaitingHeader2, result := e₂ } :=
    (h.awaiting (.inl hs) (.inr rfl) e₂).congr rfl rfl rfl rfl
  have hsecond : feedOutcome (.byte 0x4D) { s with retry := r₂, phase := .awaitingHeader2, result := e₂ } =
      { s with
        buf := (s.buf.set 0 Config.hdr1).set 1 Config.hdr2, cursor := 2#6, retry := r₂, phase := .collecting,
        result := .ok } := by
    rw [feedOutcome, readerStep_header2 _ _ _ rfl, if_pos (by rfl)]
  simp only [feedAll_append, feedAll_cons, feedAll_nil, hnoise', hfirst, hstalls', hsecond]
  refine ⟨hinv.header_match rfl, .inl rfl, rfl, ?_, ?_⟩
  · simp [take_succ_set, Config.hdr1, Config.hdr2]
  · simp only at hr₂ ⊢
    omega

/-- A fresh read that is fed the stream is Finished, and holds the frame. -/
theorem feedAll_tolerated_stream (h : ReaderInv s) (hs : s.phase = .awaitingHeader1)
    {noise stalls : List ReadOutcome} {payload : List (List ReadOutcome × Byte)} {r : Nat}
    (hnoise : ∀ o ∈ noise, o ≠ .byte 0x42) (hstalls : ∀ o ∈ stalls, o.isStall = true)
    (hpayload : ∀ p ∈ payload, ∀ o ∈ p.1, o.isStall = true) (hlen : payload.length + 2 = s.len.toNat)
    (hr : s.retry.toNat = r + (noise.length + stalls.length + burstStalls payload)) :
    HoldsBytes (0x42 :: 0x4D :: payload.map Prod.snd) r
      (feedAll (noise ++ [.byte 0x42] ++ stalls ++ [.byte 0x4D] ++ burstStream payload) s) := by
  rw [feedAll_append]
  refine HoldsBytes.after_burst (bs := [0x42, 0x4D]) (holdsBytes_header h hs hnoise hstalls (by omega)) ?_ hpayload
  rw [feedAll_len, List.length_cons, List.length_singleton]
  omega

/-- Settles O29: RDSTART leaves a fresh read, which the stream finishes. -/
theorem toleratedStreamFinishes : Obligations.ToleratedStreamFinishes := by
  intro len8 budget s noise stalls payload hwf hnoise hstalls hpayload hlen hbudget stream
  obtain ⟨-, hmax⟩ : 3 ≤ len8.toNat ∧ len8.toNat ≤ 32 := wellFormed_rdstart_iff.mp hwf
  obtain ⟨u, hexec, -, hstep⟩ := step_present_cons hwf (stream.map feedInstr) s
  cases hexec
  have hlen' : (startRead len8 budget s).len.toNat = len8.toNat := lenOperand_toNat hmax
  have hr : (startRead len8 budget s).retry.toNat =
      budget.toNat - (noise.length + stalls.length + burstStalls payload) +
        (noise.length + stalls.length + burstStalls payload) := (Nat.sub_add_cancel hbudget).symm
  have hfinal := feedAll_tolerated_stream (readerInv_startRead hwf s) rfl hnoise hstalls hpayload
    (hlen.trans hlen'.symm) hr
  have hcount : (0x42 :: 0x4D :: payload.map Prod.snd : List Byte).length = len8.toNat := by
    simpa using hlen
  have hbytes := hfinal.bytes
  rw [hcount] at hbytes
  refine ⟨feedAll stream (startRead len8 budget s), ?_, hfinal.finished ?_, hbytes, hfinal.retry⟩
  · exact (run_succ hstep stream.length).trans (runFeeds_eq_feedAll stream _)
  · rw [hcount, feedAll_len, hlen']

/-! ### Single outcomes (R89 to R97) -/

/-- Settles O23: CURSOR is below LEN, so the byte lands inside BUF and CURSOR + 1 does not wrap. -/
theorem byteInCollecting : Obligations.ByteInCollecting := by
  intro b s h hs
  obtain ⟨hc, e⟩ := h.feedOutcome_collecting hs b
  exact ⟨hc, congrArg Host.Outcome.next e⟩

/-- In an active phase an outcome fails the read, when no budget is left, or completes with OK (R91, R97). -/
theorem readerStep_active_cases (h1 h2 : Byte) (o : ReadOutcome) (ha : s.phase.isActive = true) :
    (s.retry = 0#16 ∧ readerStep h1 h2 o s = { s with phase := .failed, result := .readFailed }) ∨
    ((readerStep h1 h2 o s).phase ≠ .failed ∧ (readerStep h1 h2 o s).result = .ok) := by
  rcases readerStep_cases h1 h2 o s with
    ⟨hn, -⟩ | ⟨-, -, e⟩ | ⟨-, -, e⟩ | ⟨-, -, e⟩ | ⟨-, -, e⟩ | ⟨-, b, -, e⟩
  case inl => simp [hn] at ha
  all_goals rw [e]
  · rcases consumeRetry_cases s with ⟨hzero, e'⟩ | ⟨-, e'⟩ <;> rw [e']
    · exact .inl ⟨hzero, rfl⟩
    · exact .inr ⟨(Phase.ne_of_isActive ha).2, rfl⟩
  · exact .inr ⟨nofun, rfl⟩
  · exact .inr ⟨nofun, rfl⟩
  · exact .inr ⟨nofun, rfl⟩
  · refine .inr ⟨?_, rfl⟩
    split_ifs <;> simp

/-- Settles O26: the two ways of an outcome in an active phase, and R93. -/
theorem resultOfAFeed : Obligations.ResultOfAFeed := by
  intro o s t h
  cases h.symm.trans (exec_feedInstr o s)
  refine ⟨fun ha => ?_, feedOutcome_inactive o⟩
  rcases readerStep_active_cases Config.hdr1 Config.hdr2 o ha with ⟨-, e⟩ | ⟨hphase, hresult⟩
  · simp [feedOutcome, e]
  · simp [feedOutcome, hphase, hresult]

/-- Two halves of an alternation change nothing but RESULT. -/
theorem feedAll_alternation (hs : s.phase = .awaitingHeader1) {x : Byte} (hx : x ≠ 0x4D) :
    feedAll [.byte 0x42, .byte x] s = { s with result := .ok } := by
  rw [feedAll_cons, feedOutcome_header1 hs, feedAll_cons, feedOutcome_mismatch rfl hx, feedAll_nil, ← hs]

/-- Settles O31, by induction on the bytes: each pair comes back to AwaitingHeader1. -/
theorem alternationKeepsTheReadActive : Obligations.AlternationKeepsTheReadActive := by
  intro xs s hs hxs hne
  rw [runFeeds_eq_feedAll]
  congr 1
  induction xs generalizing s with
  | nil => exact absurd rfl hne
  | cons x xs ih =>
    obtain ⟨hx, hxs⟩ := List.forall_mem_cons.mp hxs
    rw [List.flatMap_cons, feedAll_append, feedAll_alternation hs hx]
    rcases xs with _ | ⟨y, ys⟩
    · rfl
    · exact ih { s with result := .ok } hs hxs (List.cons_ne_nil y ys)

/-- Settles O33: of all that a step can do only a read outcome in an active phase with no budget left enters Failed. -/
theorem readFailsOnlyOnASpentBudget : Obligations.ReadFailsOnlyOnASpentBudget := by
  intro s t hstep hs ht
  rcases step_reader_cases hstep with ⟨o, rest, hport, rfl⟩ | ⟨l, b, rest, -, -, rfl⟩ | ⟨c, rest, -, rfl⟩ | hsame
  · cases ha : s.phase.isActive with
    | false =>
      rw [feedOutcome_inactive (s := { s with port := rest }) o ha] at ht
      exact absurd ht hs
    | true =>
      rcases readerStep_active_cases (s := { s with port := rest }) Config.hdr1 Config.hdr2 o ha with
        ⟨hzero, e⟩ | ⟨hphase, -⟩
      · exact ⟨rfl, hzero, by rw [feedOutcome, e, hport, List.tail_cons]⟩
      · exact absurd ht hphase
  · cases ht
  · cases ht
  · exact absurd (hsame.phase.symm.trans ht) hs

/-- Settles O34: in Failed a read outcome writes nothing, so only RDSTART and RST leave it. -/
theorem failedLastsUntilRdstartOrReset : Obligations.FailedLastsUntilRdstartOrReset := by
  intro s t hs hstep ht
  rcases step_reader_cases hstep with
    ⟨o, rest, -, rfl⟩ | ⟨l, b, rest, hwf, hport, -⟩ | ⟨c, rest, hport, -⟩ | hsame
  · rw [feedOutcome_inactive (s := { s with port := rest }) o (by simp [hs, Phase.isActive])] at ht
    exact absurd hs ht
  · exact .inl ⟨l, b, rest, hwf, hport⟩
  · exact .inr ⟨c, rest, hport⟩
  · exact absurd (hsame.phase.trans hs) ht

/-! ### Repeating a command (20_memory.md R49) -/

theorem exec_parse_finished (hp : s.phase = .finished) (hl : s.len = 32#6) :
    exec .parse s = .next (parseFrame s) := by
  rcases exec_parse_cases s with ⟨-, e⟩ | ⟨hp' | hl', -⟩
  · exact e
  · exact absurd hp hp'
  · exact absurd hl hl'

theorem exec_parse_refused (h : s.phase ≠ .finished ∨ s.len ≠ 32#6) :
    exec .parse s = .next { s with result := .stateError } := by
  rcases exec_parse_cases s with ⟨⟨hp, hl⟩, -⟩ | ⟨-, e⟩
  · simp [hp, hl] at h
  · exact e

theorem exec_ackcmp_finished (sel : AckSel) (hp : s.phase = .finished) (hl : s.len = 8#6) :
    exec (.ackcmp sel) s = .next (compareAck sel s) := by
  rcases exec_ackcmp_cases sel s with ⟨-, e⟩ | ⟨hp' | hl', -⟩
  · exact e
  · exact absurd hp hp'
  · exact absurd hl hl'

theorem exec_ackcmp_refused (sel : AckSel) (h : s.phase ≠ .finished ∨ s.len ≠ 8#6) :
    exec (.ackcmp sel) s = .next { s with result := .stateError } := by
  rcases exec_ackcmp_cases sel s with ⟨⟨hp, hl⟩, -⟩ | ⟨-, e⟩
  · simp [hp, hl] at h
  · exact e

/-- What PARSE of a frame leaves does not depend on the registers it overwrites. -/
theorem parseFrame_overwrite (s : State) (r : Telemetry) (v : Bool) (c : Half) (e : ResultCode) :
    parseFrame { s with tlm := r, tlmValid := v, csumCalc := c, result := e } = parseFrame s := by
  simp only [parseFrame]
  cases parseTelemetry s.buf <;> rfl

/-- What ACKCMP of a frame leaves does not depend on the registers it overwrites. -/
theorem compareAck_overwrite (sel : AckSel) (s : State) (m : Bool) (e : ResultCode) :
    compareAck sel { s with ackMatch := m, result := e } = compareAck sel s := by
  simp only [compareAck]
  cases bufMatches (ackLiteral sel) s.buf <;> rfl

theorem exec_parse_again (h : exec .parse s = .next t) : exec .parse t = .next t := by
  rcases exec_parse_cases s with ⟨⟨hp, hl⟩, -⟩ | ⟨hno, e⟩
  · obtain ⟨r, v, c, e, h'⟩ := exec_parse_writes s
    cases h.symm.trans h'
    refine (exec_parse_finished (s := { s with tlm := r, tlmValid := v, csumCalc := c, result := e }) hp hl).trans ?_
    rw [parseFrame_overwrite, ← exec_parse_finished hp hl, h]
  · cases h.symm.trans e
    exact exec_parse_refused hno

theorem exec_ackcmp_again {sel : AckSel} (h : exec (.ackcmp sel) s = .next t) : exec (.ackcmp sel) t = .next t := by
  rcases exec_ackcmp_cases sel s with ⟨⟨hp, hl⟩, -⟩ | ⟨hno, e⟩
  · obtain ⟨m, e, h'⟩ := exec_ackcmp_writes sel s
    cases h.symm.trans h'
    refine (exec_ackcmp_finished (s := { s with ackMatch := m, result := e }) sel hp hl).trans ?_
    rw [compareAck_overwrite, ← exec_ackcmp_finished sel hp hl, h]
  · cases h.symm.trans e
    exact exec_ackcmp_refused sel hno

/-- A read in Collecting that has bytes to come and budget left. -/
def midRead : State := { State.reset with phase := .collecting, len := 32, cursor := 2, retry := 2 }

/-- Each outcome in the middle of a read, and once more, goes on: CURSOR or RETRY changes both times. -/
theorem feedOutcome_midRead_ne (o : ReadOutcome) :
    feedOutcome o (feedOutcome o midRead) ≠ feedOutcome o midRead := by
  cases o with
  | byte b => exact fun h => absurd (congrArg State.cursor h) (by decide : (4 : BitVec 6) ≠ 3)
  | notReady => decide
  | fault => decide

/-- Settles O51: a command that is no FEED reads nothing that it changes; a read outcome in the middle of a read changes
the state each time. -/
theorem repeatingACommandIsIdempotent : Obligations.RepeatingACommandIsIdempotent := by
  refine ⟨fun i s t hi h => ?_, fun o => ⟨midRead, feedOutcome o midRead, exec_feedInstr o midRead, fun h => ?_⟩⟩
  · cases i with
    | rdstart l b => cases h; rfl
    | encode o d => cases h; rfl
    | parse => exact exec_parse_again h
    | ackcmp sel => exact exec_ackcmp_again h
    | feedb b | feedn | feedf => cases hi
  · exact feedOutcome_midRead_ne o (Host.Outcome.next.inj ((exec_feedInstr o _).symm.trans h))

/-! ### The host's names (60_exceptions.md R133) -/

/-- Settles O56: the FEED that fails a read keeps its LEN, and ACKCMP in Failed is refused. -/
theorem failedAcknowledgementReadIsNoResponse : Obligations.FailedAcknowledgementReadIsNoResponse := by
  refine ⟨fun o s t h ha ht => ?_, fun sel s hs => ?_⟩
  · cases h.symm.trans (exec_feedInstr o s)
    rcases readerStep_active_cases Config.hdr1 Config.hdr2 o ha with ⟨-, e⟩ | ⟨hphase, -⟩
    · have hname : hostError (feedInstr o) (feedOutcome o s) = some (readErrorName s.len) := by
        rw [feedOutcome, e]
        rfl
      exact ⟨fun hl => by rw [hname, hl]; rfl, fun hl => by rw [hname, hl]; rfl⟩
    · exact absurd ht hphase
  · exact ⟨_, exec_ackcmp_refused sel (.inl (by simp [hs])), rfl, by simp [hostError, stateErrorName, hs]⟩

/-! ### RDSTART (R86, R103) -/

/-- Settles O18: RDSTART's writes, register by register. -/
theorem rdstartStartsAFreshRead : Obligations.RdstartStartsAFreshRead :=
  fun _ _ _ => rfl

/-- R91 as one equation. -/
theorem consumeRetry_eq (s : State) :
    consumeRetry s =
      if s.retry = 0#16 then { s with phase := .failed, result := .readFailed }
      else { s with retry := s.retry - 1#16, result := .ok } := by
  rcases consumeRetry_cases s with ⟨h, e⟩ | ⟨h, e⟩
  · rw [e, if_pos h]
  · rw [e, if_neg h]

/-- Settles O19: RDSTART writes every register but TXF and TXF_VALID, and awaits HDR1, which 0x4D is not. -/
theorem rdstartForgetsTheEarlierRead : Obligations.RdstartForgetsTheEarlierRead := by
  intro len8 budget s s' htxf hvalid hport
  refine ⟨?_, feedOutcome (.byte 0x4D) (startRead len8 budget s), rfl, ?_⟩
  · rw [rdstartStartsAFreshRead, rdstartStartsAFreshRead, htxf, hvalid, hport]
  · rw [feedOutcome, readerStep_header1 _ _ _ rfl, if_neg (by decide)]
    rcases consumeRetry_cases (startRead len8 budget s) with ⟨hzero, e⟩ | ⟨hpos, e⟩ <;> rw [e]
    · exact .inr ⟨rfl, hzero⟩
    · refine .inl ⟨rfl, ?_⟩
      have hbudget : budget ≠ 0#16 := hpos
      show (budget - 1#16).toNat + 1 = budget.toNat
      bv_omega

/-! ### The transition table for any header values (R87 to R96) -/

/-- Settles O20: none of the three phases is active. -/
theorem feedOutsideAReadWritesNothing : Obligations.FeedOutsideAReadWritesNothing := by
  intro s o hs
  have ha : s.phase.isActive = false := by rcases hs with h | h | h <;> rw [h] <;> rfl
  rw [exec_feedInstr, feedOutcome_inactive o ha]

/-- Settles O21: R89, with R91's two ways for a byte that is not HDR1. -/
theorem byteInAwaitingHeader1 : Obligations.ByteInAwaitingHeader1 := by
  intro h1 h2 b s hs
  rw [readerStep_header1 _ _ _ hs, consumeRetry_eq]
  exact ⟨rfl, rfl⟩

/-- Settles O22: R90, in which HDR2 is tested first. -/
theorem byteInAwaitingHeader2 : Obligations.ByteInAwaitingHeader2 :=
  fun h1 h2 b _ hs => ⟨readerStep_header2 h1 h2 b hs, rfl⟩

/-- Settles O24: a stall consumes retry. -/
theorem notReadyConsumesRetry : Obligations.NotReadyConsumesRetry := by
  intro s ha
  rw [exec_feedn, feedOutcome, readerStep_stall _ _ ha (.inl rfl), consumeRetry_eq]
  exact ⟨fun h => by rw [if_neg h], fun h => by rw [if_pos h]⟩

/-- The reader does not tell a fault from a byte that is not ready (R96). -/
theorem exec_feedf_eq_feedn (s : State) : exec .feedf s = exec .feedn s := by
  rw [exec_feedf, exec_feedn, feedOutcome, feedOutcome]
  cases ha : s.phase.isActive with
  | false => rw [readerStep_inactive _ _ _ ha, readerStep_inactive _ _ _ ha]
  | true => rw [readerStep_stall _ _ ha (.inr rfl), readerStep_stall _ _ ha (.inl rfl)]

/-- Settles O25: what FEEDN does, FEEDF does. -/
theorem faultConsumesRetryLikeNotReady : Obligations.FaultConsumesRetryLikeNotReady := by
  intro s
  rw [exec_feedf_eq_feedn s]
  exact ⟨rfl, fun ha => (notReadyConsumesRetry s ha).1, fun ha => (notReadyConsumesRetry s ha).2⟩

/-- Settles O30: the second 0x42 is no HDR2 (R90), and 0x4D is no HDR1 (R89). -/
theorem doubledHeaderIsMissed : Obligations.DoubledHeaderIsMissed := by
  intro s hs
  have hpair : feedAll ([.byte 0x42, .byte 0x42] ++ [.byte 0x4D]) s = consumeRetry { s with result := .ok } := by
    rw [feedAll_append, feedAll_alternation hs (by decide), feedAll_cons, feedAll_nil, feedOutcome,
      readerStep_header1 (s := { s with result := .ok }) _ _ _ hs, if_neg (by decide)]
  rw [runFeeds_eq_feedAll]
  exact congrArg Host.Outcome.next (hpair.trans (consumeRetry_eq _))

end Sys2Proof.Machine

/-! PROOFS. The frame codec (41_codec.md R105 to R119): the command frame, PARSE of a finished telemetry frame, and what
the codec commands read and leave of a read in progress. -/

namespace Sys2Proof.Machine

/-! ### The command frame (R75, R106, R107, R118, R119) -/

section
variable (opc : Byte) (data : Half)

theorem cmdFrameBody_eq : cmdFrameBody opc data = #v[0x42, 0x4D, opc, hiByte data, loByte data, 0, 0] := rfl

/-- The five summed bytes are the two header bytes, the opcode and the two data bytes. -/
theorem byteSum_cmdFrameBody :
    byteSum (cmdFrameBody opc data) 0 Config.cmdSumLen =
      0x42 + 0x4D + opc.toNat + (hiByte data).toNat + (loByte data).toNat := by
  simp [byteSum, cmdFrameBody_eq, Config.cmdSumLen]
  omega

/-- The checksum the command frame embeds. -/
def cmdChecksum : Half := byteSum16 (cmdFrameBody opc data) 0 Config.cmdSumLen

/-- Five bytes cannot overflow the 16-bit sum (R107). -/
theorem cmdChecksum_toNat :
    (cmdChecksum opc data).toNat = 0x42 + 0x4D + opc.toNat + (hiByte data).toNat + (loByte data).toNat :=
  (byteSum16_toNat _ 0 5 (by decide)).trans (byteSum_cmdFrameBody opc data)

/-- The command frame byte by byte (R75). -/
theorem cmdFrame_eq :
    cmdFrame opc data =
      #v[0x42, 0x4D, opc, hiByte data, loByte data, hiByte (cmdChecksum opc data), loByte (cmdChecksum opc data)] := rfl

/-- Bytes 2 to 4 of the frame are the operands (R119). -/
theorem cmdFrame_operands :
    (cmdFrame opc data)[2] = opc ∧ (cmdFrame opc data)[3] ++ (cmdFrame opc data)[4] = data :=
  ⟨rfl, hiByte_append_loByte data⟩

end

/-- Settles O38: the frame byte by byte, with the checksum as the natural sum. -/
theorem encodeBuildsTheCommandFrame : Obligations.EncodeBuildsTheCommandFrame := by
  intro opc data s hi lo cs
  have hcs : cmdChecksum opc data = cs := congrArg (BitVec.ofNat 16) (byteSum_cmdFrameBody opc data)
  rw [exec_encode, cmdFrame_eq, hcs]
  rfl

/-- Settles O39: the stored checksum is its two bytes, and each summed byte is at most 255. -/
theorem commandChecksumIsThePlainSum : Obligations.CommandChecksumIsThePlainSum := by
  intro opc data f sum
  have hstored : f[5].toNat * 256 + f[6].toNat = (cmdChecksum opc data).toNat := by
    rw [← append_toNat]
    exact congrArg BitVec.toNat (hiByte_append_loByte _)
  have hsum : (cmdChecksum opc data).toNat = sum := cmdChecksum_toNat opc data
  have hbytes : sum = 0x42 + 0x4D + opc.toNat + (hiByte data).toNat + (loByte data).toNat := rfl
  have := opc.isLt
  have := (hiByte data).isLt
  have := (loByte data).isLt
  omega

/-- Settles O40: the operands are read back from bytes 2 to 4. -/
theorem commandFrameIsInjective : Obligations.CommandFrameIsInjective := by
  refine ⟨fun opc opc' data data' h => ?_, cmdFrame_operands⟩
  obtain ⟨hopc, hdata⟩ := cmdFrame_operands opc data
  obtain ⟨hopc', hdata'⟩ := cmdFrame_operands opc' data'
  rw [h] at hopc hdata
  exact ⟨hopc.symm.trans hopc', hdata.symm.trans hdata'⟩

/-! ### PARSE of a finished telemetry frame (R78, R108, R109, R110, R124) -/

/-- The modelled checksum as the sum over the first thirty indices. -/
theorem telemetrySum_eq_ofNat (F : Vector Byte 32) :
    telemetrySum F = BitVec.ofNat 16 (∑ i : Fin 30, (F[i.val]).toNat) := by
  rw [← telemetrySum_toNat, BitVec.ofNat_toNat, BitVec.setWidth_eq]

/-- The 17 fields at R78's indices, T_M[1] to T_M[12] written out. -/
theorem telemetryFields_eq (F : Vector Byte 32) :
    telemetryFields F =
      { hdr1 := F[0], hdr2 := F[1], flen := F[2] ++ F[3]
        m := #v[F[4] ++ F[5], F[6] ++ F[7], F[8] ++ F[9], F[10] ++ F[11], F[12] ++ F[13], F[14] ++ F[15],
          F[16] ++ F[17], F[18] ++ F[19], F[20] ++ F[21], F[22] ++ F[23], F[24] ++ F[25], F[26] ++ F[27]]
        rsvd := F[28] ++ F[29], csum := F[30] ++ F[31] } := rfl

/-- Settles O41: of PARSE's two ways by the checksum, the one that accepts. -/
theorem parseDecodesAValidFrame : Obligations.ParseDecodesAValidFrame := by
  intro s hphase hlen F sum hvalid
  have hsum : telemetrySum s.buf = sum := telemetrySum_eq_ofNat s.buf
  rw [exec_parse_finished hphase hlen]
  rcases parseFrame_cases s with ⟨-, -, e⟩ | ⟨hbad, -, -⟩
  · rw [e, hsum, telemetryFields_eq]
  · exact absurd (hvalid.trans hsum.symm) hbad

/-- Settles O42: of PARSE's two ways by the checksum, the one that withholds the record. -/
theorem parseWithholdsABadFrame : Obligations.ParseWithholdsABadFrame := by
  intro s hphase hlen sum hbad
  have hsum : telemetrySum s.buf = sum := telemetrySum_eq_ofNat s.buf
  rw [exec_parse_finished hphase hlen]
  rcases parseFrame_cases s with ⟨hvalid, -, -⟩ | ⟨-, -, e⟩
  · exact absurd (hvalid.trans hsum) hbad
  · rw [e, hsum]
    rfl

/-- Thirty bytes sum to at most 7650, which is below 0x1E00 (R110). -/
theorem sum_thirty_le (F : Vector Byte 32) : (∑ i : Fin 30, (F[i.val]).toNat) ≤ 7650 :=
  (byteSum_eq_sum F 30 (by decide)).symm.le.trans (byteSum_le F 0 30)

/-- Settles O44: the true sum never reaches 0x1E00. -/
theorem parseAcceptsExactlyTheTrueSum : Obligations.ParseAcceptsExactlyTheTrueSum := by
  intro F
  refine ⟨parseTelemetry_ok_iff F, (parseTelemetry_error_iff F).symm, fun hhigh => ?_⟩
  rw [parseTelemetry_error_iff, parseTelemetry_ok_iff]
  have := sum_thirty_le F
  omega

/-! ### The codec and the reader (R116) -/

section
variable {s s' : State}

/-- The codec commands: none is a read outcome or RDSTART, so the registers of the read stay. -/
theorem sameReader_of_codec {i : Instr} {t : State}
    (hi : (∃ opc data, i = .encode opc data) ∨ i = .parse ∨ ∃ sel, i = .ackcmp sel) (h : exec i s = .next t) :
    SameReader s t := by
  rcases exec_reader_cases h with ⟨o, rfl, -⟩ | ⟨l, b, rfl, -⟩ | ⟨-, hsame⟩
  · cases o <;> simp [feedInstr] at hi
  · simp at hi
  · exact hsame

/-- What PARSE of a finished frame writes is a function of BUF. -/
theorem parseFrame_of_buf (F : Vector Byte 32) :
    ∃ r v c e, ∀ s : State, s.buf = F →
      parseFrame s = { s with tlm := r, tlmValid := v, csumCalc := c, result := e } := by
  cases h : parseTelemetry F with
  | ok r => exact ⟨r, true, telemetrySum F, .ok, by rintro s rfl; rw [parseFrame, h]; rfl⟩
  | error e => exact ⟨Telemetry.zero, false, telemetrySum F, e, by rintro s rfl; rw [parseFrame, h]; rfl⟩

/-- What ACKCMP of a finished frame writes is a function of BUF. -/
theorem compareAck_of_buf (sel : AckSel) (F : Vector Byte 32) :
    ∃ m e, ∀ s : State, s.buf = F → compareAck sel s = { s with ackMatch := m, result := e } := by
  cases h : bufMatches (ackLiteral sel) F with
  | true => exact ⟨true, .ok, by rintro s rfl; rw [compareAck, h]; rfl⟩
  | false => exact ⟨false, .incorrectResponse, by rintro s rfl; rw [compareAck, h]; rfl⟩

/-- States alike in PHASE, LEN and BUF: PARSE is refused in both, or writes the same values in both. -/
theorem exec_parse_congr (hphase : s.phase = s'.phase) (hlen : s.len = s'.len) (hbuf : s.buf = s'.buf) :
    (exec .parse s = .next { s with result := .stateError } ∧
      exec .parse s' = .next { s' with result := .stateError }) ∨
    (∃ r v c e, exec .parse s = .next { s with tlm := r, tlmValid := v, csumCalc := c, result := e } ∧
      exec .parse s' = .next { s' with tlm := r, tlmValid := v, csumCalc := c, result := e }) := by
  rcases exec_parse_cases s with ⟨⟨hp, hl⟩, h⟩ | ⟨hno, h⟩
  · obtain ⟨r, v, c, e, hwrite⟩ := parseFrame_of_buf s.buf
    have h' := exec_parse_finished (hphase ▸ hp) (hlen ▸ hl)
    exact .inr ⟨r, v, c, e, h.trans (congrArg _ (hwrite s rfl)), h'.trans (congrArg _ (hwrite s' hbuf.symm))⟩
  · exact .inl ⟨h, exec_parse_refused (by rwa [← hphase, ← hlen])⟩

/-- States alike in PHASE, LEN and BUF: ACKCMP is refused in both, or writes the same values in both. -/
theorem exec_ackcmp_congr (sel : AckSel) (hphase : s.phase = s'.phase) (hlen : s.len = s'.len)
    (hbuf : s.buf = s'.buf) :
    (exec (.ackcmp sel) s = .next { s with result := .stateError } ∧
      exec (.ackcmp sel) s' = .next { s' with result := .stateError }) ∨
    (∃ m e, exec (.ackcmp sel) s = .next { s with ackMatch := m, result := e } ∧
      exec (.ackcmp sel) s' = .next { s' with ackMatch := m, result := e }) := by
  rcases exec_ackcmp_cases sel s with ⟨⟨hp, hl⟩, h⟩ | ⟨hno, h⟩
  · obtain ⟨m, e, hwrite⟩ := compareAck_of_buf sel s.buf
    have h' := exec_ackcmp_finished sel (hphase ▸ hp) (hlen ▸ hl)
    exact .inr ⟨m, e, h.trans (congrArg _ (hwrite s rfl)), h'.trans (congrArg _ (hwrite s' hbuf.symm))⟩
  · exact .inl ⟨h, exec_ackcmp_refused sel (by rwa [← hphase, ← hlen])⟩

end

/-- Settles O49: the frame of the codec commands, ENCODE's constants, and the values PARSE and ACKCMP write in states
alike in PHASE, LEN and BUF. -/
theorem codecIsIndependentOfTheReader : Obligations.CodecIsIndependentOfTheReader := by
  refine ⟨fun i s t hi h => ?_, fun opc data s s' t t' h h' => ?_, fun i s s' t t' hi hphase hlen hbuf h h' => ?_⟩
  · obtain ⟨hphase, hlen, hcursor, hretry, hbuf⟩ := sameReader_of_codec hi h
    exact ⟨hphase, hlen, hcursor, hretry, hbuf⟩
  · cases h
    cases h'
    exact ⟨rfl, rfl, rfl⟩
  · rcases hi with rfl | ⟨sel, rfl⟩
    · rcases exec_parse_congr hphase hlen hbuf with ⟨e, e'⟩ | ⟨_, _, _, _, e, e'⟩ <;>
        cases h.symm.trans e <;> cases h'.symm.trans e'
      · exact ⟨rfl, fun _ hne => absurd rfl hne, fun hne => absurd rfl hne⟩
      · exact ⟨rfl, fun _ _ => ⟨rfl, rfl, rfl⟩, fun hne => absurd rfl hne⟩
    · rcases exec_ackcmp_congr sel hphase hlen hbuf with ⟨e, e'⟩ | ⟨_, _, e, e'⟩ <;>
        cases h.symm.trans e <;> cases h'.symm.trans e'
      · exact ⟨rfl, nofun, fun _ hne => absurd rfl hne⟩
      · exact ⟨rfl, nofun, fun _ _ => rfl⟩

/-- A read outcome passes over the transmit frame and RESULT: written before it or after it, they leave the same state
but for RESULT. -/
theorem readerStep_setTxFrame (h1 h2 : Byte) (o : ReadOutcome) (f : Vector Byte 7) (s : State) (e : ResultCode) :
    { readerStep h1 h2 o (complete (setTxFrame f s)) with result := e } =
      { setTxFrame f (readerStep h1 h2 o s) with result := e } := by
  obtain ⟨hphase, hcursor, hretry, hbuf, -⟩ :=
    readerStep_congr (s := complete (setTxFrame f s)) (t := s) h1 h2 o rfl rfl rfl rfl rfl
  obtain ⟨port, -, -, tlm, tlmValid, csum, ack, len⟩ := readerStep_keeps h1 h2 o s
  obtain ⟨port', txf', txfValid', tlm', tlmValid', csum', ack', len'⟩ :=
    readerStep_keeps h1 h2 o (complete (setTxFrame f s))
  exact state_eq_of_fields hphase (len'.trans len.symm) hcursor hretry hbuf rfl (tlmValid'.trans tlmValid.symm)
    (tlm'.trans tlm.symm) (csum'.trans csum.symm) txf' txfValid' (ack'.trans ack.symm) (port'.trans port.symm)

/-- Settles O50: both orders run to the end, and the read outcome passes over ENCODE's writes. -/
theorem encodingDuringAReadCommutes : Obligations.EncodingDuringAReadCommutes := by
  intro opc data o s t t' h h'
  rw [execAll_cons (exec_encode opc data s), execAll_cons (exec_feedInstr o _)] at h
  rw [execAll_cons (exec_feedInstr o s), execAll_cons (exec_encode opc data _)] at h'
  cases h
  cases h'
  exact readerStep_setTxFrame Config.hdr1 Config.hdr2 o (cmdFrame opc data) s .ok

end Sys2Proof.Machine

/-! PROOFS. Errors (60_exceptions.md R126 to R129): what an illegal word and a refused frame write, and the order of the
checks. -/

namespace Sys2Proof.Machine

variable {s t : State}

/-! ### Illegal words and refused frames (R126, R127) -/

/-- Settles O7: the step takes the word off the port, and all else it writes is RESULT. -/
theorem illegalWordWritesOnlyResult : Obligations.IllegalWordWritesOnlyResult := by
  intro s w e rest hport hdecode
  rw [step_command hport, runWord_error hdecode]

/-- Settles O43: the refused case of each command. -/
theorem codecRefusesAnUnfinishedFrame : Obligations.CodecRefusesAnUnfinishedFrame :=
  ⟨fun _ hno => exec_parse_refused hno, fun sel _ hno => exec_ackcmp_refused sel hno⟩

/-! ### The one result code of a command (R129) -/

/-- PARSE's precondition decides before its checksum does. -/
theorem exec_parse_result (h : exec .parse s = .next t) :
    if s.phase ≠ .finished ∨ s.len ≠ 32#6 then t.result = .stateError
    else t.result = .ok ∨ t.result = .checksumError := by
  split_ifs with hno
  · cases h.symm.trans (exec_parse_refused hno)
    rfl
  · obtain ⟨hp, hl⟩ : s.phase = .finished ∧ s.len = 32#6 := by simpa using hno
    cases h.symm.trans (exec_parse_finished hp hl)
    rcases parseFrame_cases s with ⟨-, -, e⟩ | ⟨-, -, e⟩ <;> rw [e]
    · exact .inl rfl
    · exact .inr rfl

/-- ACKCMP's precondition decides before its comparison does. -/
theorem exec_ackcmp_result {sel : AckSel} (h : exec (.ackcmp sel) s = .next t) :
    if s.phase ≠ .finished ∨ s.len ≠ 8#6 then t.result = .stateError
    else t.result = .ok ∨ t.result = .incorrectResponse := by
  split_ifs with hno
  · cases h.symm.trans (exec_ackcmp_refused sel hno)
    rfl
  · obtain ⟨hp, hl⟩ : s.phase = .finished ∧ s.len = 8#6 := by simpa using hno
    cases h.symm.trans (exec_ackcmp_finished sel hp hl)
    rcases compareAck_cases sel s with ⟨-, e⟩ | ⟨-, e⟩ <;> rw [e]
    · exact .inl rfl
    · exact .inr rfl

/-- A read outcome in an active phase fails the read or completes; in any other phase it writes nothing (R93, R97). -/
theorem exec_feedInstr_result {o : ReadOutcome} (h : exec (feedInstr o) s = .next t) :
    if s.phase.isActive then t.result = .readFailed ∧ t.phase = .failed ∨ t.result = .ok ∧ t.phase ≠ .failed
    else t = s := by
  obtain ⟨hactive, hinactive⟩ := resultOfAFeed o s t h
  split_ifs with ha
  · obtain ⟨hfailed, hok⟩ := hactive ha
    by_cases hp : t.phase = .failed
    · exact .inl ⟨hfailed.mpr hp, hp⟩
    · exact .inr ⟨hok.mpr hp, hp⟩
  · exact hinactive (by simpa using ha)

theorem exec_feedInstr_ne_illegalOp_or_eq {o : ReadOutcome} (h : exec (feedInstr o) s = .next t) :
    t.result ≠ .illegalOp ∨ t = s := by
  have hresult := exec_feedInstr_result h
  split_ifs at hresult
  · rcases hresult with ⟨e, -⟩ | ⟨e, -⟩ <;> exact .inl (by simp [e])
  · exact .inr hresult

/-- No command reports ILLEGAL_OP; where it stands after one, that one wrote nothing. -/
theorem exec_ne_illegalOp_or_eq {i : Instr} (h : exec i s = .next t) : t.result ≠ .illegalOp ∨ t = s := by
  cases i with
  | rdstart l b => cases h; exact .inl nofun
  | feedb b => exact exec_feedInstr_ne_illegalOp_or_eq (o := .byte b) h
  | feedn => exact exec_feedInstr_ne_illegalOp_or_eq (o := .notReady) h
  | feedf => exact exec_feedInstr_ne_illegalOp_or_eq (o := .fault) h
  | encode o d => cases h; exact .inl nofun
  | parse => exact .inl fun he => by simpa [he] using exec_parse_result h
  | ackcmp sel => exact .inl fun he => by simpa [he] using exec_ackcmp_result h

/-- Settles O52: the decoder decides between an illegal word and a command, whose own result then stands. -/
theorem checksApplyInTheStatedOrder : Obligations.ChecksApplyInTheStatedOrder := by
  intro w s t h
  have hexec : ∀ {i}, decode w = .ok i → exec i s = .next t := fun hw => (runWord_ok hw s).symm.trans h
  refine ⟨fun e hw => ?_, fun hw => exec_parse_result (hexec hw), fun sel hw => exec_ackcmp_result (hexec hw),
    fun len8 budget hw => ?_, fun opc data hw => ?_, fun o hw => exec_feedInstr_result (hexec hw),
    fun i hw => exec_ne_illegalOp_or_eq (hexec hw)⟩
  · cases h.symm.trans (runWord_error hw s)
    rfl
  · cases hexec hw
    rfl
  · cases hexec hw
    rfl

end Sys2Proof.Machine

/-! PROOFS. Reset: the reset state as the host reads it, and a reset in the step that takes it
(70_reset_and_hazards.md R143). -/

namespace Sys2Proof.Machine

/-- R38 by name: every register reads 0, the codes of PHASE and RESULT being 0 for Idle and OK. -/
theorem view_reset (r : Reg) : State.reset.view r = 0 := by
  cases r with
  | buf i => exact Vector.getElem_replicate i.isLt
  | txf i => exact Vector.getElem_replicate i.isLt
  | tM k => exact Vector.getElem_replicate k.isLt
  | _ => rfl

/-- Settles O8: the step is the reset, and the view does not show the port that it leaves. -/
theorem resetPrecedesTheCommand : Obligations.ResetPrecedesTheCommand :=
  fun _ _ rest h => ⟨_, step_rst h, rfl, rfl, rfl, fun r => (view_port .reset rest r).trans (view_reset r)⟩

end Sys2Proof.Machine

/-! PROOFS. Waiting: the step of a block to which the host presents nothing (log entry 2). -/

namespace Sys2Proof.Machine

/-- Settles O10: an empty port leaves the step no input to take, so it answers the state it began with. -/
theorem waitingBlockKeepsItsState : Obligations.WaitingBlockKeepsItsState :=
  fun _ h => step_idle_port h

end Sys2Proof.Machine
